-- ==== Sys2Proof/Word.lean ====
section
/-! DEFINITION. The byte, and the finite byte sequences of the notation of `00_scope.md` R8. -/

namespace Sys2Proof

/-- R8: a `Byte` is an integer 0 to 255. -/
abbrev Byte := BitVec 8

/-- R8: `Bytes` is a finite sequence of `Byte`; the first element is the first byte on the wire. -/
abbrev Bytes := List Byte

end Sys2Proof
end

