-- ==== Sys2Proof/Config.lean ====
section
/-! DEFINITION. The parameters of `00_scope.md` R7: the fixed frame bytes, and the open font tables
(assumption log 8). -/

namespace Sys2Proof

/-- R7, R45: the byte that opens every frame. -/
def Config.prefixByte : Byte := 0xAA

/-- R7, R45: the four bytes that close every frame, in wire order. -/
def Config.suffix : Bytes := [0xCC, 0x33, 0xC3, 0x3C]

/-- R23: the two constant tables, indexed by the font index 0 to 9. -/
structure Fonts where
  /-- `FONT_H` -/
  height : Fin 10 → Nat
  /-- `FONT_W` -/
  width : Fin 10 → Nat

/-- R117: all that the source fixes of the font tables. -/
abbrev Fonts.Admissible (F : Fonts) : Prop :=
  (∀ i j : Fin 10, i < j → F.height i < F.height j) ∧
  (∀ i j : Fin 10, i < j → F.width i < F.width j) ∧
  0 < F.height 0 ∧ F.height 9 ≤ 64

/-- OPEN (D24, log 8): what decides `FONT_H`; no value is known. -/
opaque Config.heightStep : Nat → Nat

/-- OPEN (D24, log 8): what decides `FONT_W`; no value is known. -/
opaque Config.widthStep : Nat → Nat

/-- `step 0 + step 1 + … + step i`. -/
def Config.runSum (step : Nat → Nat) : Nat → Nat
  | 0 => step 0
  | i + 1 => Config.runSum step i + step (i + 1)

/-- The tables that two sequences of increments stand for. Every pair of sequences gives tables that are
admissible in the sense of R117, and every admissible pair of tables comes from some pair of sequences
(Laws/Operands.lean: `fontsOf_admissible`, `fontsOf_onto`), so nothing beyond R117 is fixed. -/
def Config.fontsOf (h w : Nat → Nat) : Fonts where
  height i := i.val + 1 + min 54 (Config.runSum h i.val)
  width i := i.val + Config.runSum w i.val

/-- R7, R23: the font tables of this machine: admissible, otherwise unknown. -/
def Config.fonts : Fonts := Config.fontsOf Config.heightStep Config.widthStep

end Sys2Proof
end

