-- ==== Sys2Proof/Syntax.lean ====
section
/-! DEFINITION. The eleven command values of `30_encoding.md` R46, with the operand types R46 gives them. -/

namespace Sys2Proof

/-- R7 `NUM`, decision D4: exact rationals (log 9). -/
abbrev NUM := Rat

/-- R46: a colour is a triple of `NUM`. -/
structure Color where
  r : NUM
  g : NUM
  b : NUM
deriving DecidableEq, Repr

/-- R46, D22: a finite sequence of character codes, possibly empty. -/
abbrev Text := List Nat

/-- R46: the closed set of commands, operands in the order of the API (R64). One constructor per row of
`opcode_table.json`. -/
inductive Instr where
  | handshake
  | setRotation (angle : Int)
  | setBacklight (level : NUM)
  | updateLcd
  | clearFrame (color : Color)
  | drawLine (x0 y0 x1 y1 : Int) (color : Color)
  | drawRect (x0 y0 x1 y1 : Int) (color : Color) (fillMode : Int)
  | drawString (x y : Int) (text : Text) (font : Int) (fg : Color) (bg : Option Color) (fixedWidth : Bool)
  | drawNumber (x y : Int) (value : NUM) (font : Int) (fg : Color) (bg : Option Color) (signed : Bool)
      (digits decimals : Int) (leftAdjust zeroPad : Bool)
  | drawQr (x y : Int) (text : Text) (pixelSize : Int)
  | loadJpeg (id : Int)
deriving DecidableEq, Repr

end Sys2Proof
end

