-- ==== Sys2Proof/Machine/Operands.lean ====
section
/-! DEFINITION. The field encoders of `30_encoding.md` sections 3 to 6 (R49 to R59), the draw-number
scaling and shift of `42_text_commands.md` (R105, R106), and the byte-order helpers they use. -/

namespace Sys2Proof.Machine

open Sys2Proof

/-- The two error classes ENC can raise (R160, R164). Only the class is recorded (D15). -/
inductive EncErr where
  /-- R161: a value outside the protocol-legal range. -/
  | domain
  /-- R162: a value that its width or encoding cannot represent. -/
  | encoding
deriving DecidableEq, Repr

/-- R33, R49: the low `8n` bits of `v` as `n` bytes, most significant first. -/
def beBytes : Nat → Nat → Bytes
  | 0, _ => []
  | n + 1, v => BitVec.ofNat 8 (v / 2 ^ (8 * n)) :: beBytes n v

/-- R33: the unsigned big-endian reading of a byte sequence. -/
def beNat (bs : Bytes) : Nat := bs.foldl (fun acc b => acc * 256 + b.toNat) 0

/-- R8: `tc_N(v) = v mod 2^N`, the two's-complement pattern. -/
def twosComplement (bits : Nat) (v : Int) : Int := v % 2 ^ bits

/-- R8: `sext_N(v)`, the signed reading of an N-bit pattern. -/
def signExtend (bits : Nat) (v : Nat) : Int :=
  if v < 2 ^ (bits - 1) then (v : Int) else (v : Int) - 2 ^ bits

/-- R49: `enc_u(n, v)`. -/
def encU (n : Nat) (v : Int) : Except EncErr Bytes :=
  if 0 ≤ v ∧ v < 2 ^ (8 * n) then .ok (beBytes n v.toNat) else .error .encoding

/-- R49: `enc_s(n, v)`. -/
def encS (n : Nat) (v : Int) : Except EncErr Bytes :=
  if -(2 ^ (8 * n - 1)) ≤ v ∧ v < 2 ^ (8 * n - 1) then encU n (twosComplement (8 * n) v)
  else .error .encoding

/-- R54: `quant(max, c) = floor(max * c + 1/2)` on [0, 1]. -/
def quant (max : Nat) (c : NUM) : Except EncErr Nat :=
  if 0 ≤ c ∧ c ≤ 1 then .ok (Rat.floor ((max : NUM) * c + 1 / 2)).toNat else .error .domain

/-- R55, D6: the 16-bit word of the three quantized channels, red in bits 15:11, green in 10:5, blue in 4:0. -/
def rgb565 (r5 g6 b5 : Nat) : Nat := (r5 <<< 11) ||| (g6 <<< 5) ||| b5

/-- R55: `enc_color`; the channels are checked in the order r, g, b. -/
def encColor (c : Color) : Except EncErr Bytes := do
  let r5 ← quant 31 c.r
  let g6 ← quant 63 c.g
  let b5 ← quant 31 c.b
  encU 2 (rgb565 r5 g6 b5)

/-- R56: round to nearest integer, ties away from zero. -/
def roundHaz (q : NUM) : Int :=
  if 0 ≤ q then Rat.floor (q + 1 / 2) else -Rat.floor (-q + 1 / 2)

/-- R57: `enc_luminance`. -/
def encLuminance (l : NUM) : Except EncErr Bytes := do
  let q ← quant 31 l
  encU 1 q

/-- R58: `enc_text`; one byte per character, the first character above 127 raises. -/
def encText : Text → Except EncErr Bytes
  | [] => .ok []
  | ch :: t =>
    if ch ≤ 127 then do
      let bs ← encText t
      .ok (BitVec.ofNat 8 ch :: bs)
    else .error .encoding

/-- R59, R81: `rot_index`, the position of the angle in [0, 90, 180, 270]. -/
def rotIndex (angle : Int) : Except EncErr Nat :=
  if angle = 0 then .ok 0
  else if angle = 90 then .ok 1
  else if angle = 180 then .ok 2
  else if angle = 270 then .ok 3
  else .error .domain

/-- R59, D12: `font_field`. -/
def fontField (font : Int) : Except EncErr (Fin 10) :=
  if h : 0 ≤ font ∧ font ≤ 9 then .ok ⟨font.toNat, by omega⟩ else .error .domain

/-- R59, D12: `fill_field`. -/
def fillField (m : Int) : Except EncErr Int :=
  if m = 0 ∨ m = 1 ∨ m = 2 then .ok m else .error .domain

/-- R59, D9: the background colour field; `00 00` when no background is given. -/
def bgField : Option Color → Except EncErr Bytes
  | none => .ok [0x00, 0x00]
  | some c => encColor c

/-- R65: `10^decimals`, an exact rational for every integer exponent. -/
def pow10 : Int → NUM
  | .ofNat n => ((10 ^ n : Nat) : NUM)
  | .negSucc n => 1 / ((10 ^ (n + 1) : Nat) : NUM)

/-- R105: `v = round_haz(value * 10^decimals)`. -/
def scaledValue (value : NUM) (decimals : Int) : Int := roundHaz (value * pow10 decimals)

/-- R106: the x that goes on the wire; one font width is added when `signed`, not left-adjusted and `v >= 0`. -/
def shiftedX (F : Fonts) (x : Int) (font : Fin 10) (signed leftAdjust : Bool) (v : Int) : Int :=
  if signed = true ∧ leftAdjust = false ∧ 0 ≤ v then x + F.width font else x

/-- R104: the 4-byte value field, signed or unsigned by the `signed` operand. -/
def valueField (signed : Bool) (v : Int) : Except EncErr Bytes :=
  if signed = true then encS 4 v else encU 4 v

end Sys2Proof.Machine
end

