-- ==== Sys2Proof/Machine/Flags.lean ====
section
/-! DEFINITION. The two flags bytes, bit by bit (`42_text_commands.md` R101 and R107, `30_encoding.md` R59). -/

namespace Sys2Proof.Machine

open Sys2Proof

/-- R101: bit 7 variable-width = not `fixed_width` (D10), bit 6 draw-bg (D9), bits 5:4 zero (D8), bits 3:0 font. -/
def stringFlags (fixedWidth drawBg : Bool) (font : Nat) : Nat :=
  ((!fixedWidth).toNat <<< 7) ||| (drawBg.toNat <<< 6) ||| font

/-- R107: bit 7 draw-bg (D9), bit 6 signed, bit 5 right-adjust = not `left_adjust` (D10), bit 4 zero-pad,
bits 3:0 font. -/
def numberFlags (drawBg signed leftAdjust zeroPad : Bool) (font : Nat) : Nat :=
  (drawBg.toNat <<< 7) ||| (signed.toNat <<< 6) ||| ((!leftAdjust).toNat <<< 5) |||
    (zeroPad.toNat <<< 4) ||| font

end Sys2Proof.Machine
end

