-- ==== Sys2Proof/Machine/Frame.lean ====
section
/-! DEFINITION. The frame wrapper (`30_encoding.md` R45), the opcode map (R61), the reply expectation (R48)
and the shape every emitted unit has. -/

namespace Sys2Proof.Machine

open Sys2Proof

/-- R45: `wrap(payload)`; it cannot fail. -/
def wrap (payload : Bytes) : Bytes := Config.prefixByte :: (payload ++ Config.suffix)

/-- R61: the payload's first byte (frame offset 1) of each command. -/
def commandByte : Instr → Byte
  | .handshake => 0x00
  | .setRotation _ => 0x34
  | .setBacklight _ => 0x30
  | .updateLcd => 0x3D
  | .clearFrame _ => 0x01
  | .drawLine _ _ _ _ _ => 0x03
  | .drawRect _ _ _ _ _ _ => 0x05
  | .drawString _ _ _ _ _ _ _ => 0x11
  | .drawNumber _ _ _ _ _ _ _ _ _ _ _ => 0x14
  | .drawQr _ _ _ _ => 0x21
  | .loadJpeg _ => 0x22

/-- R61: the total length of each command's frame. -/
def frameLength : Instr → Nat
  | .handshake => 6
  | .setRotation _ => 9
  | .setBacklight _ => 7
  | .updateLcd => 6
  | .clearFrame _ => 8
  | .drawLine _ _ _ _ _ => 16
  | .drawRect _ _ _ _ _ _ => 17
  | .drawString _ _ text _ _ _ _ => 15 + text.length
  | .drawNumber _ _ _ _ _ _ _ _ _ _ _ => 21
  | .drawQr _ _ text _ => 11 + text.length
  | .loadJpeg _ => 8

/-- R48: the commands documented as expecting a reply. -/
def replyExpected : Instr → Bool
  | .handshake => true
  | .setRotation _ => true
  | .setBacklight _ => false
  | .updateLcd => false
  | .clearFrame _ => false
  | .drawLine _ _ _ _ _ => false
  | .drawRect _ _ _ _ _ _ => false
  | .drawString _ _ _ _ _ _ _ => false
  | .drawNumber _ _ _ _ _ _ _ _ _ _ _ => false
  | .drawQr _ _ _ _ => false
  | .loadJpeg _ => false

/-- R48 and R61 together: whether a frame is a handshake's or a set-rotation's, read off its command byte
(the first payload byte alone selects the command, R61). DEDUCED, log 16. -/
def frameExpectsReply (frame : Bytes) : Bool :=
  frame[1]? == some 0x00 || frame[1]? == some 0x34

/-- R45: a unit with the prefix, a payload of at least one byte (the shortest frame has six bytes) and the suffix. -/
def framed (f : Bytes) : Bool :=
  decide (6 ≤ f.length) && f.head? == some Config.prefixByte && f.drop (f.length - 4) == Config.suffix

/-- R8: `MemRead(i, n)` over the transmit buffer, the unsigned big-endian integer in `buf[i:i+n]`. -/
def memRead (buf : Bytes) (i n : Nat) : Nat := beNat ((buf.drop i).take n)

end Sys2Proof.Machine
end

