-- ==== Sys2Proof/WellFormed.lean ====
section
/-! DEFINITION. Well-formed commands: every operand in the range its field admits, and every real operand
on its field's quantization grid, so that a frame determines the command (log 7). A command that is not
well formed still runs (it is quantized, or it raises the error of R161 and R162): this check restricts
no meaning. -/

namespace Sys2Proof

open Sys2Proof.Machine

/-- An unsigned field of `n` bytes holds `v` (R49). -/
abbrev WellFormed.fits (n : Nat) (v : Int) : Bool := decide (0 ≤ v ∧ v < 2 ^ (8 * n))

/-- A channel in [0, 1] (R54) that is a multiple of `1/max`. -/
def WellFormed.onGrid (max : Nat) (c : NUM) : Bool :=
  decide (0 ≤ c ∧ c ≤ 1) && decide (((max : NUM) * c).den = 1)

/-- The three channels of R55 on their grids. -/
def WellFormed.color (c : Color) : Bool :=
  WellFormed.onGrid 31 c.r && WellFormed.onGrid 63 c.g && WellFormed.onGrid 31 c.b

/-- An absent background, or one on the grid (R59). -/
def WellFormed.background : Option Color → Bool
  | none => true
  | some c => WellFormed.color c

/-- R58: 7-bit-clean text. -/
def WellFormed.text (t : Text) : Bool := t.all (fun ch => decide (ch ≤ 127))

/-- R59: a font index of the table. -/
def WellFormed.font (font : Int) : Bool := decide (0 ≤ font ∧ font ≤ 9)

/-- R104, R105: the scaled value is an integer that the 4-byte field holds. -/
def WellFormed.number (signed : Bool) (value : NUM) (decimals : Int) : Bool :=
  let q := value * pow10 decimals
  decide (q.den = 1) &&
    (if signed then decide (-(2 ^ 31) ≤ q.num ∧ q.num < 2 ^ 31) else decide (0 ≤ q.num ∧ q.num < 2 ^ 32))

/-- R106: the coordinate as it goes on the wire fits a word. -/
def WellFormed.wireX (F : Fonts) (x : Int) (value : NUM) (font : Int) (signed : Bool) (decimals : Int)
    (leftAdjust : Bool) : Bool :=
  WellFormed.fits 2
    (shiftedX F x (Fin.ofNat 10 font.toNat) signed leftAdjust (value * pow10 decimals).num)

/-- Every operand of the command is one its frame can carry exactly, under the font tables `F`. -/
def wellFormedWith (F : Fonts) : Instr → Bool
  | .handshake => true
  | .setRotation angle => decide (angle = 0 ∨ angle = 90 ∨ angle = 180 ∨ angle = 270)
  | .setBacklight level => WellFormed.onGrid 31 level
  | .updateLcd => true
  | .clearFrame color => WellFormed.color color
  | .drawLine x0 y0 x1 y1 color =>
    WellFormed.fits 2 x0 && WellFormed.fits 2 y0 && WellFormed.fits 2 x1 && WellFormed.fits 2 y1 &&
      WellFormed.color color
  | .drawRect x0 y0 x1 y1 color fillMode =>
    WellFormed.fits 2 x0 && WellFormed.fits 2 y0 && WellFormed.fits 2 x1 && WellFormed.fits 2 y1 &&
      WellFormed.color color && decide (fillMode = 0 ∨ fillMode = 1 ∨ fillMode = 2)
  | .drawString x y text font fg bg _ =>
    WellFormed.fits 2 x && WellFormed.fits 2 y && WellFormed.text text && WellFormed.font font &&
      WellFormed.color fg && WellFormed.background bg
  | .drawNumber x y value font fg bg signed digits decimals leftAdjust _ =>
    WellFormed.wireX F x value font signed decimals leftAdjust && WellFormed.fits 2 y &&
      WellFormed.number signed value decimals && WellFormed.font font && WellFormed.color fg &&
      WellFormed.background bg && WellFormed.fits 1 digits && WellFormed.fits 1 decimals
  | .drawQr x y text pixelSize =>
    WellFormed.fits 2 x && WellFormed.fits 2 y && WellFormed.text text && WellFormed.fits 1 pixelSize
  | .loadJpeg id => WellFormed.fits 1 id

/-- Well-formedness under this machine's font tables. -/
def wellFormed (i : Instr) : Bool := wellFormedWith Config.fonts i

end Sys2Proof
end

