-- ==== Sys2Proof/Decode.lean ====
section
/-! DEFINITION. From a command's frame to the command, total and rejecting by name, written from the layouts
of `30_encoding.md` R60 and the map R61; and after it the encoder, written from the same layouts. The
recognizer of file 44 is another thing: it looks for the first suffix, this reads a byte sequence known to be
one whole frame (log 6, log 7). -/

namespace Sys2Proof

open Sys2Proof.Machine

/-- Why a byte sequence is no command's frame (R61, R62, `93_implementation_defined.md` U1, U2). -/
inductive DecodeError where
  /-- R45: it does not begin with the prefix. -/
  | noPrefix
  /-- R45: it does not end with the suffix after a payload. -/
  | noSuffix
  /-- R61: there is no command byte. -/
  | emptyPayload
  /-- R62, U1: a command byte other than the eleven. -/
  | unknownCommand
  /-- R61: set-rotation without `5A A5`, or load-jpeg without `00`. -/
  | badHeader
  /-- R60: the payload has not the length of its command's layout. -/
  | badLength
  /-- R62, U2: a rotation index above 3. -/
  | badRotation
  /-- R62, U2: a luminance byte above `1F`. -/
  | badLuminance
  /-- R62, U2: a fill mode above 2. -/
  | badFillMode
  /-- R62, U2: a font nibble above 9. -/
  | badFont
  /-- R62, U2: bits 5:4 of the draw-string flags byte set. -/
  | reservedFlags
  /-- R59: a background colour with the draw-background bit clear. -/
  | strayBackground
  /-- R62, U2: a text byte with bit 7 set. -/
  | badText
deriving DecidableEq, Repr

/-- A two-byte unsigned field (R33, R51). -/
def readWord (hi lo : Byte) : Int := (beNat [hi, lo] : Nat)

/-- The channel that the quantized value `n` of R54 stands for. -/
def readChannel (max n : Nat) : NUM := (n : NUM) / (max : NUM)

/-- The colour of an RGB565 word (R55). -/
def readColor (hi lo : Byte) : Color :=
  let w := beNat [hi, lo]
  { r := readChannel 31 (w / 2 ^ 11 % 2 ^ 5)
    g := readChannel 63 (w / 2 ^ 5 % 2 ^ 6)
    b := readChannel 31 (w % 2 ^ 5) }

/-- The background of R59: present exactly when the draw-background bit is set, else the field is `00 00`. -/
def readBackground (drawBg : Bool) (hi lo : Byte) : Except DecodeError (Option Color) :=
  if drawBg = true then .ok (some (readColor hi lo))
  else if hi = 0 ∧ lo = 0 then .ok none
  else .error .strayBackground

/-- The text of R58: every byte with bit 7 clear. -/
def readText : Bytes → Except DecodeError Text
  | [] => .ok []
  | b :: bs =>
    if b.toNat ≤ 127 then do
      let t ← readText bs
      .ok (b.toNat :: t)
    else .error .badText

/-- The x that R106 turned into the x on the wire. -/
def unshiftedX (F : Fonts) (xw : Int) (font : Nat) (signed leftAdjust : Bool) (v : Int) : Int :=
  if signed = true ∧ leftAdjust = false ∧ 0 ≤ v then xw - F.width (Fin.ofNat 10 font) else xw

/-- R60, layout `set_rotation`, after the command byte. -/
def decodeRotation : Bytes → Except DecodeError Instr
  | [h1, h2, idx] =>
    if h1 = 0x5A ∧ h2 = 0xA5 then
      if idx.toNat ≤ 3 then .ok (.setRotation (90 * idx.toNat)) else .error .badRotation
    else .error .badHeader
  | _ => .error .badLength

/-- R60, layout `set_backlight`, after the command byte. -/
def decodeBacklight : Bytes → Except DecodeError Instr
  | [l] => if l.toNat ≤ 31 then .ok (.setBacklight (readChannel 31 l.toNat)) else .error .badLuminance
  | _ => .error .badLength

/-- R60, layout `clear_frame`, after the command byte. -/
def decodeClear : Bytes → Except DecodeError Instr
  | [c1, c0] => .ok (.clearFrame (readColor c1 c0))
  | _ => .error .badLength

/-- R60, layout `draw_line`, after the command byte. -/
def decodeLine : Bytes → Except DecodeError Instr
  | [c1, c0, a1, a0, b1, b0, d1, d0, e1, e0] =>
    .ok (.drawLine (readWord a1 a0) (readWord b1 b0) (readWord d1 d0) (readWord e1 e0) (readColor c1 c0))
  | _ => .error .badLength

/-- R60, layout `draw_rect`, after the command byte. -/
def decodeRect : Bytes → Except DecodeError Instr
  | [m, c1, c0, a1, a0, b1, b0, d1, d0, e1, e0] =>
    if m.toNat ≤ 2 then
      .ok (.drawRect (readWord a1 a0) (readWord b1 b0) (readWord d1 d0) (readWord e1 e0) (readColor c1 c0)
        m.toNat)
    else .error .badFillMode
  | _ => .error .badLength

/-- R60, layout `draw_string`, after the command byte. -/
def decodeString : Bytes → Except DecodeError Instr
  | fl :: f1 :: f0 :: g1 :: g0 :: x1 :: x0 :: y1 :: y0 :: text =>
    if fl.toNat / 2 ^ 4 % 2 ^ 2 ≠ 0 then .error .reservedFlags
    else if 9 < fl.toNat % 2 ^ 4 then .error .badFont
    else do
      let bg ← readBackground (fl.getLsbD 6) g1 g0
      let t ← readText text
      .ok (.drawString (readWord x1 x0) (readWord y1 y0) t (fl.toNat % 2 ^ 4 : Nat) (readColor f1 f0) bg
        (!fl.getLsbD 7))
  | _ => .error .badLength

/-- R60, layout `draw_number`, after the command byte. -/
def decodeNumber (F : Fonts) : Bytes → Except DecodeError Instr
  | [fl, f1, f0, g1, g0, ds, dc, x1, x0, y1, y0, v3, v2, v1, v0] =>
    if 9 < fl.toNat % 2 ^ 4 then .error .badFont
    else do
      let bg ← readBackground (fl.getLsbD 7) g1 g0
      let signed := fl.getLsbD 6
      let leftAdjust := !fl.getLsbD 5
      let n := beNat [v3, v2, v1, v0]
      let v : Int := if signed = true then signExtend 32 n else n
      .ok (.drawNumber (unshiftedX F (readWord x1 x0) (fl.toNat % 2 ^ 4) signed leftAdjust v)
        (readWord y1 y0) ((v : NUM) / pow10 dc.toNat) (fl.toNat % 2 ^ 4 : Nat) (readColor f1 f0) bg signed
        ds.toNat dc.toNat leftAdjust (fl.getLsbD 4))
  | _ => .error .badLength

/-- R60, layout `draw_qr`, after the command byte. -/
def decodeQr : Bytes → Except DecodeError Instr
  | x1 :: x0 :: y1 :: y0 :: ps :: text => do
    let t ← readText text
    .ok (.drawQr (readWord x1 x0) (readWord y1 y0) t ps.toNat)
  | _ => .error .badLength

/-- R60, layout `load_jpeg`, after the command byte. -/
def decodeJpeg : Bytes → Except DecodeError Instr
  | [z, id] => if z = 0 then .ok (.loadJpeg id.toNat) else .error .badHeader
  | _ => .error .badLength

/-- R60, a layout with no field after the command byte. -/
def decodeBare (i : Instr) : Bytes → Except DecodeError Instr
  | [] => .ok i
  | _ => .error .badLength

/-- R61: the payload's first byte selects the command. -/
def decodePayload (F : Fonts) : Bytes → Except DecodeError Instr
  | [] => .error .emptyPayload
  | op :: fields =>
    if op = 0x00 then decodeBare .handshake fields
    else if op = 0x34 then decodeRotation fields
    else if op = 0x30 then decodeBacklight fields
    else if op = 0x3D then decodeBare .updateLcd fields
    else if op = 0x01 then decodeClear fields
    else if op = 0x03 then decodeLine fields
    else if op = 0x05 then decodeRect fields
    else if op = 0x11 then decodeString fields
    else if op = 0x14 then decodeNumber F fields
    else if op = 0x21 then decodeQr fields
    else if op = 0x22 then decodeJpeg fields
    else .error .unknownCommand

/-- R45: prefix, payload, suffix; then the payload. -/
def decodeWith (F : Fonts) : Bytes → Except DecodeError Instr
  | [] => .error .noPrefix
  | b :: rest =>
    if b ≠ Config.prefixByte then .error .noPrefix
    else if rest.length < 4 then .error .noSuffix
    else if rest.drop (rest.length - 4) ≠ Config.suffix then .error .noSuffix
    else decodePayload F (rest.take (rest.length - 4))

/-- The decoder under this machine's font tables. -/
def decode (bytes : Bytes) : Except DecodeError Instr := decodeWith Config.fonts bytes

/-- The field value of a channel on its grid (R54): the exact integer `max * c`. -/
def gridIndex (max : Nat) (c : NUM) : Nat := ((max : NUM) * c).num.toNat

/-- R60: the two colour bytes of a colour on the grid. -/
def putColor (c : Color) : Bytes :=
  beBytes 2 (gridIndex 31 c.r * 2 ^ 11 + gridIndex 63 c.g * 2 ^ 5 + gridIndex 31 c.b)

/-- R60: the two background bytes. -/
def putBackground : Option Color → Bytes
  | none => [0, 0]
  | some c => putColor c

/-- R60: one byte per character. -/
def putText (t : Text) : Bytes := t.map (fun ch => BitVec.ofNat 8 ch)

/-- The payload of a well-formed command, field by field from the layouts of R60. -/
def encodePayloadWith (F : Fonts) : Instr → Bytes
  | .handshake => [0x00]
  | .setRotation angle => [0x34, 0x5A, 0xA5] ++ beBytes 1 (angle / 90).toNat
  | .setBacklight level => [0x30] ++ beBytes 1 (gridIndex 31 level)
  | .updateLcd => [0x3D]
  | .clearFrame color => [0x01] ++ putColor color
  | .drawLine x0 y0 x1 y1 color =>
    [0x03] ++ putColor color ++ beBytes 2 x0.toNat ++ beBytes 2 y0.toNat ++ beBytes 2 x1.toNat ++
      beBytes 2 y1.toNat
  | .drawRect x0 y0 x1 y1 color fillMode =>
    [0x05] ++ beBytes 1 fillMode.toNat ++ putColor color ++ beBytes 2 x0.toNat ++ beBytes 2 y0.toNat ++
      beBytes 2 x1.toNat ++ beBytes 2 y1.toNat
  | .drawString x y text font fg bg fixedWidth =>
    [0x11] ++ beBytes 1 ((if fixedWidth then 0 else 128) + (if bg.isSome then 64 else 0) + font.toNat) ++
      putColor fg ++ putBackground bg ++ beBytes 2 x.toNat ++ beBytes 2 y.toNat ++ putText text
  | .drawNumber x y value font fg bg signed digits decimals leftAdjust zeroPad =>
    let v := (value * pow10 decimals).num
    [0x14] ++
      beBytes 1 ((if bg.isSome then 128 else 0) + (if signed then 64 else 0) + (if leftAdjust then 0 else 32) +
        (if zeroPad then 16 else 0) + font.toNat) ++
      putColor fg ++ putBackground bg ++ beBytes 1 digits.toNat ++ beBytes 1 decimals.toNat ++
      beBytes 2 (shiftedX F x (Fin.ofNat 10 font.toNat) signed leftAdjust v).toNat ++ beBytes 2 y.toNat ++
      beBytes 4 (v % 2 ^ 32).toNat
  | .drawQr x y text pixelSize =>
    [0x21] ++ beBytes 2 x.toNat ++ beBytes 2 y.toNat ++ beBytes 1 pixelSize.toNat ++ putText text
  | .loadJpeg id => [0x22, 0x00] ++ beBytes 1 id.toNat

/-- The frame of a well-formed command (R45, R60). The block's own `encode`, with its range checks and its
errors, is `Machine.encodeCommandWith`. -/
def encodeWith (F : Fonts) (i : Instr) : Bytes := wrap (encodePayloadWith F i)

/-- The frame of a well-formed command under this machine's font tables. -/
def encode (i : Instr) : Bytes := encodeWith Config.fonts i

/-- R60, R61: prefix and payload length of each command's shortest frame, by command byte. -/
def shortestBody (op : Byte) : Nat :=
  if op = 0x00 then 2
  else if op = 0x34 then 5
  else if op = 0x30 then 3
  else if op = 0x3D then 2
  else if op = 0x01 then 4
  else if op = 0x03 then 12
  else if op = 0x05 then 13
  else if op = 0x11 then 11
  else if op = 0x14 then 17
  else if op = 0x21 then 7
  else if op = 0x22 then 4
  else 0

/-- The frame that an opcode-table word of `nbits` bits stands for: R61 reads the leading bytes as one
big-endian number, offset 0 most significant; the operand bytes above are zero, the text is empty, and the
suffix closes the frame (log 1). -/
def tableFrame (nbits w : Nat) : Bytes :=
  let lead := beBytes ((nbits + 7) / 8) w
  let body := shortestBody (lead.getD 1 0)
  if lead.length ≤ body then lead ++ List.replicate (body - lead.length) 0 ++ Config.suffix
  else lead ++ Config.suffix

/-- The instruction the decoder reads from an opcode-table word. -/
def decodeTableWord (nbits w : Nat) : Option Instr := (decode (tableFrame nbits w)).toOption

end Sys2Proof
end

