-- ==== Sys2Proof/Machine/State.lean ====
section
/-! DEFINITION. The state: the block's fields (`10_state.md` R27), the two streams (`20_memory.md` R30, R31),
what the host holds at the block's ports, the environment of file 45, and the moves to come. -/

namespace Sys2Proof.Machine

open Sys2Proof

/-- R160: the error taxonomy. -/
inductive ErrorClass where
  | ok
  | domainError
  | encodingError
  | noResponse
  | portError
deriving DecidableEq, Repr

/-- R16: the status of the last command presented. -/
inductive EStat where
  | ok
  | domainError
  | encodingError
deriving DecidableEq, Repr

/-- R17: the decoder's sequencing state. -/
inductive RxState where
  /-- no read is armed -/
  | idle
  /-- armed, no prefix taken yet -/
  | hunt
  /-- prefix taken, suffix not yet -/
  | body
deriving DecidableEq, Repr

/-- R22: the result of the last armed read. -/
inductive RxResult where
  | none
  | frame (preamble body : Bytes)
  | noResponse
deriving DecidableEq, Repr

/-- What the host presents at the `cmd` port (R11): a command value (R46), or a command's wire bytes, read at
the boundary (D29, log 6). -/
inductive Presented where
  | value (c : Instr)
  | wire (bytes : Bytes)
deriving DecidableEq, Repr

/-- The two font queries (R115, R116) with the operand domains of D33. -/
inductive FontQuery where
  | forHeight (h : Int)
  | forWidth (w : Int) (n : Nat)
deriving DecidableEq, Repr

/-- R141: the CommandQueue state. -/
structure Queue where
  /-- `Q.tx`: frames waiting to be transmitted, oldest first -/
  tx : List Bytes
  /-- `Q.rd`: read requests waiting (they carry no data) -/
  rd : Nat
  /-- `Q.term`: termination flag -/
  term : Bool
deriving DecidableEq, Repr

/-- R140: a work item. -/
inductive WorkItem where
  | transmit (bytes : Bytes)
  | readRequest
  | terminate
deriving DecidableEq, Repr

/-- R149: the worker's state machine. -/
inductive WorkerPhase where
  | idle
  | running
  | draining
  | stopped
deriving DecidableEq, Repr

/-- R148: the item in the worker's hands, and how far it is (log 16). -/
inductive Serving where
  /-- no item: the worker is at `take()` -/
  | free
  /-- a frame was taken and ENC has not yet got it -/
  | toWrite (frame : Bytes)
  /-- ENC is emitting the frame -/
  | writing
  /-- a read request was taken and DEC is not yet armed -/
  | toRead
  /-- DEC serves the read -/
  | reading
deriving DecidableEq, Repr

/-- R148, R149: PortWorker. -/
structure Worker where
  phase : WorkerPhase
  serving : Serving
deriving DecidableEq, Repr

/-- R155: a message of the channel from the worker to the caller: a read result that is there to be reported. -/
inductive Reply where
  | frame (preamble body : Bytes)
  | noResponse
deriving DecidableEq, Repr

/-- R153: the scoped acquisition of DisplayDriver (log 24). -/
inductive Scope where
  /-- no handle yet -/
  | notEntered
  /-- the handle is held -/
  | inside
  /-- termination is signalled and the exit waits for the worker -/
  | leaving
  /-- the exit has returned: the worker is stopped and the port released -/
  | left
deriving DecidableEq, Repr

/-- R153: how a scope is left. -/
inductive ExitPath where
  | normal
  /-- "including error paths", "including panics/exceptions" -/
  | error
deriving DecidableEq, Repr

/-- R150 to R155: DisplayDriver and its callers, as far as they have state. -/
structure Driver where
  /-- the class the last driver operation returned to its caller (R150, R154) -/
  opResult : ErrorClass
  /-- operations that have enqueued their frame and not yet their read request (R150, R152) -/
  owedReads : Nat
  /-- a PortError to be surfaced to the holder of the scoped handle (R154) -/
  portFault : Bool
  /-- the scoped handle (R153) -/
  scope : Scope
  /-- the class that the scope's exit returned to its owner (R154), once it has returned -/
  exitResult : Option ErrorClass
  /-- the message a caller took last from the channel (R155) -/
  replyTaken : Option Reply
deriving DecidableEq, Repr

/-- One entry of the schedule: a step of the block (R194), a move of the host or the line (R195), or a move of
the environment (file 45). -/
inductive Move where
  /-- ENC accepts the command waiting at `cmd` (R20) -/
  | issue
  /-- ENC emits one byte (R21) -/
  | emit
  /-- DEC serves a read request waiting at `rx_arm` (R125) -/
  | rxArm
  /-- DEC takes one byte of `RX` (R126 to R128) -/
  | rxByte
  /-- the timeout event (R129) -/
  | rxTimeout
  /-- the reset event (R180) -/
  | reset
  /-- the host presents a command at `cmd` -/
  | present (p : Presented)
  /-- the host requests a read at `rx_arm` -/
  | requestRead
  /-- the host reads the outputs (R195) -/
  | readOutputs
  /-- the host asks a font query (R115, R116) -/
  | query (q : FontQuery)
  /-- the line removes a byte from the front of `TX` (R30) -/
  | lineTake
  /-- the line appends a byte to `RX` (R31) -/
  | lineAppend (b : Byte)
  /-- a caller performs a public operation of DisplayDriver (R150) -/
  | driverOp (c : Instr)
  /-- a caller inserts the read request it still owes (R150, R152) -/
  | driverRead
  /-- `terminate()` (R146) -/
  | terminate
  /-- a caller takes a message from the channel (R155) -/
  | takeReply
  /-- `scoped_open()`: scope entry, which starts the worker (R149, R153) -/
  | scopeEnter
  /-- the owner begins to leave the scope, by whatever path (R153) -/
  | scopeExit (path : ExitPath)
  /-- the exit has joined the worker and returns (R153, R154) -/
  | scopeJoin
  /-- PortWorker takes a step of its loop (R148) -/
  | workerStep
  /-- the serial transport fails (R154) -/
  | portError
deriving DecidableEq, Repr

/-- The machine's state. The first eight fields are the block's, in the order of the table of R27. -/
structure State where
  /-- `S.TXBUF` (R12) -/
  txBuf : Bytes
  /-- `S.TXIDX` (R13) -/
  txIdx : Nat
  /-- `S.TXREPLY` (R15) -/
  txReply : Bool
  /-- `S.ESTAT` (R16) -/
  eStat : EStat
  /-- `S.RXSTATE` (R17) -/
  rxState : RxState
  /-- `S.RXPRE` (R18) -/
  rxPre : Bytes
  /-- `S.RXBODY` (R19) -/
  rxBody : Bytes
  /-- `S.RXRES` (R22) -/
  rxRes : RxResult
  /-- `TX` (R30): emitted and not yet removed by the line -/
  tx : Bytes
  /-- the bytes the line has removed from the front of `TX`, oldest first (R30, R194; log 13) -/
  txTaken : Bytes
  /-- `RX` (R31): delivered and not yet taken -/
  rx : Bytes
  /-- commands the host holds at the `cmd` port, oldest first (R20, R191; log 5) -/
  cmd : List Presented
  /-- read requests the host holds at the `rx_arm` port (R125, R191; log 5) -/
  arms : Nat
  /-- CommandQueue (R141) -/
  queue : Queue
  /-- PortWorker (R148, R149) -/
  worker : Worker
  /-- the channel from the worker to the callers (R155), oldest message first -/
  replies : List Reply
  /-- DisplayDriver (R150 to R155) -/
  driver : Driver
  /-- the moves to come (log 3) -/
  sched : List Move
deriving DecidableEq, Repr

/-- Faults. The spec names none (file 60, opening: "The block has no traps in the processor sense"), so the
type has no constructor (log 19). -/
inductive Fault where
deriving DecidableEq, Repr

/-- Refusals. -/
inductive Refusal where
  /-- Raised by `exec` for an instruction that has no meaning yet. Safe: the run stops. -/
  | notModelled (mnemonic : String)
  /-- Raised by the `issue` step when the bytes waiting at the `cmd` port are no command's frame: D29, "not
  representable; a model refuses it at its boundary" (also U1, U2). Safe: the run stops. -/
  | notACommand (why : DecodeError)
deriving DecidableEq, Repr

/-- R27, R180 for the block's fields; the streams empty as in `95_test_vectors.md` Part 3; the environment as
R141 and log 15 say; nothing presented and nothing scheduled. -/
def State.reset : State where
  txBuf := []
  txIdx := 0
  txReply := false
  eStat := .ok
  rxState := .idle
  rxPre := []
  rxBody := []
  rxRes := .none
  tx := []
  txTaken := []
  rx := []
  cmd := []
  arms := 0
  queue := { tx := [], rd := 0, term := false }
  worker := { phase := .idle, serving := .free }
  replies := []
  driver :=
    { opResult := .ok, owedReads := 0, portFault := false, scope := .notEntered, exitResult := Option.none
      replyTaken := Option.none }
  sched := []

end Sys2Proof.Machine
end

