-- ==== Sys2Proof/Machine/Ops.lean ====
section
/-! DEFINITION. The steps of the block over the state (R20, R21, R125 to R129, R180), the ports (R11), and
the moves of the host and the line (R195). A step that is not enabled leaves the state as it is (log 5). -/

namespace Sys2Proof.Machine

open Sys2Proof

/-- R160: the numeric code of an error class. -/
def ErrorClass.code : ErrorClass → Nat
  | .ok => 0
  | .domainError => 1
  | .encodingError => 2
  | .noResponse => 3
  | .portError => 4

/-- R160: the class `S.ESTAT` stands for. -/
def EStat.errorClass : EStat → ErrorClass
  | .ok => .ok
  | .domainError => .domainError
  | .encodingError => .encodingError

/-- R160: the class `S.RXRES` stands for; a result that is no timeout is no error (log 21). -/
def RxResult.errorClass : RxResult → ErrorClass
  | .none => .ok
  | .frame _ _ => .ok
  | .noResponse => .noResponse

/-- R164: the class an encoder error leaves in `S.ESTAT`. -/
def EncErr.eStat : EncErr → EStat
  | .domain => .domainError
  | .encoding => .encodingError

/-- R14: `TX_BUSY`, derived. -/
def State.txBusy (s : State) : Bool := decide (s.txIdx < s.txBuf.length)

/-- R11: the port `cmd_status`, with the numeric code of R160. -/
def State.cmdStatus (s : State) : Nat := s.eStat.errorClass.code

/-- R11: the port `reply_expected`. -/
def State.replyOutput (s : State) : Bool := s.txReply

/-- R11: the port `rx_result`. -/
def State.rxResult (s : State) : RxResult := s.rxRes

/-- R11, R17: a read is armed. -/
def State.rxArmed (s : State) : Bool := s.rxState == .hunt || s.rxState == .body

/-- R194: the block is quiescent. -/
def State.quiescent (s : State) : Bool := !s.txBusy && s.rxState == .idle

/-- R148, R195: PortWorker owns the port from its start until it has released it. Meanwhile "the port is never
accessed outside this execution context": a command or a read request that a host holds at the block's own ports
waits (log 16). -/
def State.portOwned (s : State) : Bool := s.worker.phase == .running || s.worker.phase == .draining

/-- R155: what a finished read reports to the caller; where a reset has cleared the result, nothing
(log 16). -/
def RxResult.replies : RxResult → List Reply
  | .none => []
  | .frame pre body => [.frame pre body]
  | .noResponse => [.noResponse]

/-- R164, R165: what a DomainError or an EncodingError does: `S.ESTAT <- E` and nothing else. There is no
return from it. -/
def State.raise (s : State) (e : EncErr) : State := { s with eStat := e.eStat }

/-- R20, first arm: the frame is loaded. -/
def State.load (s : State) (frame : Bytes) (reply : Bool) : State :=
  { s with txBuf := frame, txIdx := 0, txReply := reply, eStat := .ok }

/-- R20: the step `issue` on the outcome of `encode(c)`. While `TX_BUSY = 1` it is not enabled and the command
waits (D17). -/
def State.issue (s : State) (encoded : Except EncErr Bytes) (reply : Bool) : State :=
  if s.txBusy = true then s
  else
    match encoded with
    | .ok frame => s.load frame reply
    | .error e => s.raise e

/-- R30: `TxPut(b)`. -/
def State.txPut (s : State) (b : Byte) : State := { s with tx := s.tx ++ [b] }

/-- R21: the step `emit`. -/
def State.emit (s : State) : State :=
  match s.txBuf[s.txIdx]? with
  | some b => { s.txPut b with txIdx := s.txIdx + 1 }
  | none => s

/-- R125: the step `rx_arm`. -/
def State.rxArm (s : State) : State :=
  if s.rxState = .idle then { s with rxPre := [], rxBody := [], rxRes := .none, rxState := .hunt } else s

/-- R127: the last four bytes are the suffix. -/
def endsInSuffix (bs : Bytes) : Bool := decide (4 ≤ bs.length) && bs.drop (bs.length - 4) == Config.suffix

/-- R126: a byte taken in `HUNT`. -/
def State.huntByte (s : State) (b : Byte) : State :=
  if b = Config.prefixByte then { s with rxState := .body } else { s with rxPre := s.rxPre ++ [b] }

/-- R127, R128: a byte taken in `BODY`. -/
def State.bodyByte (s : State) (b : Byte) : State :=
  let B := s.rxBody ++ [b]
  if endsInSuffix B = true then
    { s with rxRes := .frame s.rxPre (B.take (B.length - 4)), rxBody := [], rxPre := [], rxState := .idle }
  else { s with rxBody := B }

/-- R126 to R128: the step `rx_byte`; `RxTake()` (R31) and what the byte does. -/
def State.rxByte (s : State) : State :=
  match s.rxState, s.rx with
  | .hunt, b :: rest => { s with rx := rest }.huntByte b
  | .body, b :: rest => { s with rx := rest }.bodyByte b
  | _, _ => s

/-- R129: the step `rx_timeout`. -/
def State.rxTimeout (s : State) : State :=
  if s.rxState = .hunt ∨ s.rxState = .body then
    { s with rxRes := .noResponse, rxPre := [], rxBody := [], rxState := .idle }
  else s

/-- R180, R181: the event `reset`: the block's eight fields, and no other. -/
def State.resetBlock (s : State) : State :=
  { s with
    txBuf := []
    txIdx := 0
    txReply := false
    eStat := .ok
    rxState := .idle
    rxPre := []
    rxBody := []
    rxRes := .none }

/-- R195: the line removes a byte from the front of `TX`. -/
def State.lineTake (s : State) : State :=
  match s.tx with
  | b :: rest => { s with tx := rest, txTaken := s.txTaken ++ [b] }
  | [] => s

/-- R31: the line appends a byte to `RX`. -/
def State.lineAppend (s : State) (b : Byte) : State := { s with rx := s.rx ++ [b] }

/-- R194: the whole of `TX`, every byte emitted since the start of the run, in order. -/
def State.wire (s : State) : Bytes := s.txTaken ++ s.tx

/-- R21, R28: the tail of the frame that is not yet emitted. -/
def State.pending (s : State) : Bytes := s.txBuf.drop s.txIdx

/-- R195: the host presents a command; it waits at the port until an `issue` accepts it. -/
def State.present (s : State) (p : Presented) : State := { s with cmd := s.cmd ++ [p] }

/-- R195: the host requests a read; it waits at the port until an `rx_arm` serves it. -/
def State.requestRead (s : State) : State := { s with arms := s.arms + 1 }

/-- The `rx_arm` step on a request a host holds at the port (R125): enabled when DEC is idle and the worker does not
own the port (R148). -/
def State.serveRead (s : State) : State :=
  if s.portOwned = false ∧ s.rxState = .idle ∧ 0 < s.arms then { s with arms := s.arms - 1 }.rxArm else s

/-- The command a presented item stands for: the value itself, or what the boundary reads from its bytes. -/
def Presented.command : Presented → Except DecodeError Instr
  | .value c => .ok c
  | .wire bytes => decode bytes

end Sys2Proof.Machine
end

