-- ==== Sys2Proof/Machine/ControlCommands.lean ====
section
/-! DEFINITION. handshake, set_rotation, set_backlight, update_lcd (`40_control_commands.md` R80 to R83). -/

namespace Sys2Proof.Machine

open Sys2Proof

/-- R80: `enc_handshake`. -/
def encHandshake : Except EncErr Bytes := .ok (wrap [0x00])

/-- R81: `enc_set_rotation`. -/
def encSetRotation (angle : Int) : Except EncErr Bytes := do
  let idx ← rotIndex angle
  let b ← encU 1 idx
  .ok (wrap ([0x34, 0x5A, 0xA5] ++ b))

/-- R82: `enc_set_backlight`. -/
def encSetBacklight (level : NUM) : Except EncErr Bytes := do
  let b ← encLuminance level
  .ok (wrap ([0x30] ++ b))

/-- R83: `enc_update_lcd`. -/
def encUpdateLcd : Except EncErr Bytes := .ok (wrap [0x3D])

/-- R80. -/
def execHandshake (s : State) : Host.Outcome State Fault Refusal :=
  .next (s.issue encHandshake (replyExpected .handshake))

/-- R81. -/
def execSetRotation (angle : Int) (s : State) : Host.Outcome State Fault Refusal :=
  .next (s.issue (encSetRotation angle) (replyExpected (.setRotation angle)))

/-- R82. -/
def execSetBacklight (level : NUM) (s : State) : Host.Outcome State Fault Refusal :=
  .next (s.issue (encSetBacklight level) (replyExpected (.setBacklight level)))

/-- R83. -/
def execUpdateLcd (s : State) : Host.Outcome State Fault Refusal :=
  .next (s.issue encUpdateLcd (replyExpected .updateLcd))

end Sys2Proof.Machine
end

