-- ==== Sys2Proof/Machine/GraphicsCommands.lean ====
section
/-! DEFINITION. clear_frame, draw_line, draw_rect, load_jpeg (`41_graphics_commands.md` R90 to R93). Fields are
evaluated in wire order (R47, D14). -/

namespace Sys2Proof.Machine

open Sys2Proof

/-- R90: `enc_clear_frame`. -/
def encClearFrame (color : Color) : Except EncErr Bytes := do
  let c ← encColor color
  .ok (wrap ([0x01] ++ c))

/-- R91: `enc_draw_line`. -/
def encDrawLine (x0 y0 x1 y1 : Int) (color : Color) : Except EncErr Bytes := do
  let c ← encColor color
  let a ← encU 2 x0
  let b ← encU 2 y0
  let d ← encU 2 x1
  let e ← encU 2 y1
  .ok (wrap ([0x03] ++ c ++ a ++ b ++ d ++ e))

/-- R92: `enc_draw_rect`. -/
def encDrawRect (x0 y0 x1 y1 : Int) (color : Color) (fillMode : Int) : Except EncErr Bytes := do
  let m ← fillField fillMode
  let mb ← encU 1 m
  let c ← encColor color
  let a ← encU 2 x0
  let b ← encU 2 y0
  let d ← encU 2 x1
  let e ← encU 2 y1
  .ok (wrap ([0x05] ++ mb ++ c ++ a ++ b ++ d ++ e))

/-- R93: `enc_load_jpeg`. -/
def encLoadJpeg (id : Int) : Except EncErr Bytes := do
  let b ← encU 1 id
  .ok (wrap ([0x22, 0x00] ++ b))

/-- R90. -/
def execClearFrame (color : Color) (s : State) : Host.Outcome State Fault Refusal :=
  .next (s.issue (encClearFrame color) (replyExpected (.clearFrame color)))

/-- R91. -/
def execDrawLine (x0 y0 x1 y1 : Int) (color : Color) (s : State) : Host.Outcome State Fault Refusal :=
  .next (s.issue (encDrawLine x0 y0 x1 y1 color) (replyExpected (.drawLine x0 y0 x1 y1 color)))

/-- R92. -/
def execDrawRect (x0 y0 x1 y1 : Int) (color : Color) (fillMode : Int) (s : State) :
    Host.Outcome State Fault Refusal :=
  .next (s.issue (encDrawRect x0 y0 x1 y1 color fillMode)
    (replyExpected (.drawRect x0 y0 x1 y1 color fillMode)))

/-- R93. -/
def execLoadJpeg (id : Int) (s : State) : Host.Outcome State Fault Refusal :=
  .next (s.issue (encLoadJpeg id) (replyExpected (.loadJpeg id)))

end Sys2Proof.Machine
end

