-- ==== Sys2Proof/Machine/TextCommands.lean ====
section
/-! DEFINITION. draw_string, draw_number, draw_qr (`42_text_commands.md` R100 to R108). Fields are evaluated in
wire order (R47, D14). -/

namespace Sys2Proof.Machine

open Sys2Proof

/-- R100: `enc_draw_string`. -/
def encDrawString (x y : Int) (text : Text) (font : Int) (fg : Color) (bg : Option Color) (fixedWidth : Bool) :
    Except EncErr Bytes := do
  let f ← fontField font
  let fl ← encU 1 (stringFlags fixedWidth bg.isSome f : Nat)
  let fgB ← encColor fg
  let bgB ← bgField bg
  let xB ← encU 2 x
  let yB ← encU 2 y
  let t ← encText text
  .ok (wrap ([0x11] ++ fl ++ fgB ++ bgB ++ xB ++ yB ++ t))

/-- R104: `enc_draw_number`, under the font tables `F`. -/
def encDrawNumber (F : Fonts) (x y : Int) (value : NUM) (font : Int) (fg : Color) (bg : Option Color)
    (signed : Bool) (digits decimals : Int) (leftAdjust zeroPad : Bool) : Except EncErr Bytes := do
  let f ← fontField font
  let fl ← encU 1 (numberFlags bg.isSome signed leftAdjust zeroPad f : Nat)
  let fgB ← encColor fg
  let bgB ← bgField bg
  let idB ← encU 1 digits
  let ddB ← encU 1 decimals
  let v := scaledValue value decimals
  let xB ← encU 2 (shiftedX F x f signed leftAdjust v)
  let yB ← encU 2 y
  let vB ← valueField signed v
  .ok (wrap ([0x14] ++ fl ++ fgB ++ bgB ++ idB ++ ddB ++ xB ++ yB ++ vB))

/-- R108: `enc_draw_qr`. -/
def encDrawQr (x y : Int) (text : Text) (pixelSize : Int) : Except EncErr Bytes := do
  let xB ← encU 2 x
  let yB ← encU 2 y
  let ps ← encU 1 pixelSize
  let t ← encText text
  .ok (wrap ([0x21] ++ xB ++ yB ++ ps ++ t))

/-- R100. -/
def execDrawString (x y : Int) (text : Text) (font : Int) (fg : Color) (bg : Option Color) (fixedWidth : Bool)
    (s : State) : Host.Outcome State Fault Refusal :=
  .next (s.issue (encDrawString x y text font fg bg fixedWidth)
    (replyExpected (.drawString x y text font fg bg fixedWidth)))

/-- R104. -/
def execDrawNumber (x y : Int) (value : NUM) (font : Int) (fg : Color) (bg : Option Color) (signed : Bool)
    (digits decimals : Int) (leftAdjust zeroPad : Bool) (s : State) : Host.Outcome State Fault Refusal :=
  .next (s.issue (encDrawNumber Config.fonts x y value font fg bg signed digits decimals leftAdjust zeroPad)
    (replyExpected (.drawNumber x y value font fg bg signed digits decimals leftAdjust zeroPad)))

/-- R108. -/
def execDrawQr (x y : Int) (text : Text) (pixelSize : Int) (s : State) : Host.Outcome State Fault Refusal :=
  .next (s.issue (encDrawQr x y text pixelSize) (replyExpected (.drawQr x y text pixelSize)))

end Sys2Proof.Machine
end

