-- ==== Sys2Proof/Machine/Encode.lean ====
section
/-! DEFINITION. The dispatch `encode(c)` of `30_encoding.md` R47, a pure function of the command and the font
tables. -/

namespace Sys2Proof.Machine

open Sys2Proof

/-- R47: `encode(c)` under the font tables `F`. -/
def encodeCommandWith (F : Fonts) : Instr → Except EncErr Bytes
  | .handshake => encHandshake
  | .setRotation angle => encSetRotation angle
  | .setBacklight level => encSetBacklight level
  | .updateLcd => encUpdateLcd
  | .clearFrame color => encClearFrame color
  | .drawLine x0 y0 x1 y1 color => encDrawLine x0 y0 x1 y1 color
  | .drawRect x0 y0 x1 y1 color fillMode => encDrawRect x0 y0 x1 y1 color fillMode
  | .drawString x y text font fg bg fixedWidth => encDrawString x y text font fg bg fixedWidth
  | .drawNumber x y value font fg bg signed digits decimals leftAdjust zeroPad =>
    encDrawNumber F x y value font fg bg signed digits decimals leftAdjust zeroPad
  | .drawQr x y text pixelSize => encDrawQr x y text pixelSize
  | .loadJpeg id => encLoadJpeg id

/-- R47: `encode(c)` under this machine's font tables. -/
def encodeCommand (c : Instr) : Except EncErr Bytes := encodeCommandWith Config.fonts c

end Sys2Proof.Machine
end

