-- ==== Sys2Proof/Machine/Dispatch.lean ====
section
/-! DEFINITION. One arm per command. -/

namespace Sys2Proof.Machine

open Sys2Proof

def exec (i : Instr) (s : State) : Host.Outcome State Fault Refusal :=
  match i with
  | .handshake => Sys2Proof.Machine.execHandshake s
  | .setRotation angle => Sys2Proof.Machine.execSetRotation angle s
  | .setBacklight level => Sys2Proof.Machine.execSetBacklight level s
  | .updateLcd => Sys2Proof.Machine.execUpdateLcd s
  | .clearFrame color => Sys2Proof.Machine.execClearFrame color s
  | .drawLine x0 y0 x1 y1 color => Sys2Proof.Machine.execDrawLine x0 y0 x1 y1 color s
  | .drawRect x0 y0 x1 y1 color fillMode => Sys2Proof.Machine.execDrawRect x0 y0 x1 y1 color fillMode s
  | .drawString x y text font fg bg fixedWidth => Sys2Proof.Machine.execDrawString x y text font fg bg fixedWidth s
  | .drawNumber x y value font fg bg signed digits decimals leftAdjust zeroPad => Sys2Proof.Machine.execDrawNumber x y value font fg bg signed digits decimals leftAdjust zeroPad s
  | .drawQr x y text pixelSize => Sys2Proof.Machine.execDrawQr x y text pixelSize s
  | .loadJpeg id => Sys2Proof.Machine.execLoadJpeg id s

end Sys2Proof.Machine
end

