-- ==== Sys2Proof/Machine/Environment.lean ====
section
/-! DEFINITION. The environment of `45_environment_queue_worker.md`: CommandQueue, PortWorker, DisplayDriver.
It is outside the block (R5) and stands here as the block's host model (logs 15 to 18 and 24). -/

namespace Sys2Proof.Machine

open Sys2Proof

/-- R142: `put_transmit(bytes)`; never blocks, and after `terminate()` the item is appended and never taken (U12). -/
def Queue.putTransmit (q : Queue) (bytes : Bytes) : Queue := { q with tx := q.tx ++ [bytes] }

/-- R144: `put_read_request()`. -/
def Queue.putReadRequest (q : Queue) : Queue := { q with rd := q.rd + 1 }

/-- R146: `terminate()`; the flag is never cleared. -/
def Queue.terminate (q : Queue) : Queue := { q with term := true }

/-- R143: `take()`, the item and what is left; `none` where it blocks. Termination is looked at first, then
transmit items, then reads. -/
def Queue.take (q : Queue) : Option (WorkItem × Queue) :=
  if q.term = true then some (.terminate, q)
  else
    match q.tx with
    | b :: rest => some (.transmit b, { q with tx := rest })
    | [] => if 0 < q.rd then some (.readRequest, { q with rd := q.rd - 1 }) else none

/-- R150: a public operation up to its first queue insertion; the read request it owes is a second insertion
(R152, log 18). After a PortError the fault is surfaced instead (R154, log 17). It is an operation of the scoped handle:
outside the scope there is none to perform it on (R153, log 24). -/
def State.driverOp (s : State) (c : Instr) : State :=
  if s.driver.scope ≠ .inside then s
  else if s.driver.portFault = true then { s with driver := { s.driver with opResult := .portError } }
  else
    match encodeCommand c with
    | .error e => { s with driver := { s.driver with opResult := e.eStat.errorClass } }
    | .ok frame =>
      { s with
        queue := s.queue.putTransmit frame
        driver := { s.driver with
          opResult := .ok
          owedReads := s.driver.owedReads + (if replyExpected c = true then 1 else 0) } }

/-- R150: the second insertion of a transmit-then-read pair. DESIGN CHOICE (log 18): the spec does not say what
becomes of a pair that a PortError, a termination or the end of the scope overtakes between its two insertions; the
operation has then passed its only check, so the owed request is still inserted, and no worker takes it. -/
def State.driverRead (s : State) : State :=
  if 0 < s.driver.owedReads then
    { s with
      queue := s.queue.putReadRequest
      driver := { s.driver with owedReads := s.driver.owedReads - 1 } }
  else s

/-- R146. -/
def State.terminate (s : State) : State := { s with queue := s.queue.terminate }

/-- R146: `terminate()` called through the scoped handle (R153, log 24). DESIGN CHOICE (log 17): the spec does not say which
calls are the holder's "next interaction" of R154; this one, which returns nothing, surfaces no PortError. -/
def State.terminateCall (s : State) : State := if s.driver.scope = .inside then s.terminate else s

/-- R155: a caller takes the oldest message of the channel. DESIGN CHOICE (log 25): the spec does not say whether the
channel outlives the scope; here a caller can still take its messages once the exit has begun or returned. DESIGN CHOICE (log 17): taking a message is
no "next interaction" of R154 and surfaces no PortError. -/
def State.takeReply (s : State) : State :=
  match s.replies with
  | r :: rest => { s with replies := rest, driver := { s.driver with replyTaken := some r } }
  | [] => s

/-- R149: `Idle → Running` on start. -/
def State.workerStart (s : State) : State :=
  if s.worker.phase = .idle then { s with worker := { s.worker with phase := .running } } else s

/-- R153: `scoped_open()`: "construction starts the worker". -/
def State.scopeEnter (s : State) : State :=
  if s.driver.scope = .notEntered then
    { s.workerStart with driver := { s.driver with scope := .inside } }
  else s

/-- R153: the scope begins to be left: termination is signalled, on every exit path alike. -/
def State.scopeExit (s : State) : State :=
  if s.driver.scope = .inside then { s.terminate with driver := { s.driver with scope := .leaving } } else s

/-- R153, R154: the exit returns once the worker has stopped and so released the port, and a PortError is surfaced to
the owner of the scope; until then it waits. -/
def State.scopeJoin (s : State) : State :=
  if s.driver.scope = .leaving ∧ s.worker.phase = .stopped then
    { s with
      driver := { s.driver with
        scope := .left
        exitResult := some (if s.driver.portFault = true then .portError else .ok) } }
  else s

/-- R148: what the worker does with the item it has just taken, and the queue that is left. -/
def State.workerTook (s : State) (item : WorkItem) (q : Queue) : State :=
  match item with
  | .transmit b => { s with queue := q, worker := { s.worker with serving := .toWrite b } }
  | .readRequest => { s with queue := q, worker := { s.worker with serving := .toRead } }
  | .terminate => { s with queue := q, worker := { s.worker with phase := .draining } }

/-- R148: one step of the loop of a running worker; where it waits, nothing changes (log 16). An item is begun only
when the block is quiescent, so a transmit and a read never overlap. The result of a read goes to the caller through the
channel (R155). DESIGN CHOICE (log 16): the spec does not say what becomes of an item whose frame or read a reset cuts;
here the item counts as served, is not repeated, and a cut read sends no message; nor does a read that had completed or
timed out, where a reset clears `S.RXRES` before the worker's next step. -/
def State.workerLoop (s : State) : State :=
  match s.worker.serving with
  | .free =>
    match s.queue.take with
    | some (item, q) => s.workerTook item q
    | none => s
  | .toWrite frame =>
    if s.quiescent = true then
      { s.load frame (frameExpectsReply frame) with worker := { s.worker with serving := .writing } }
    else s
  | .writing => if s.txBusy = true then s else { s with worker := { s.worker with serving := .free } }
  | .toRead =>
    if s.quiescent = true then { s.rxArm with worker := { s.worker with serving := .reading } } else s
  | .reading =>
    if s.rxState = .idle then
      { s with replies := s.replies ++ s.rxRes.replies, worker := { s.worker with serving := .free } }
    else s

/-- R148, R149: a step of PortWorker: the loop while running; `Draining → Stopped` when the loop has exited and
the port is released. -/
def State.workerStep (s : State) : State :=
  match s.worker.phase with
  | .idle => s
  | .running => s.workerLoop
  | .draining => { s with worker := { s.worker with phase := .stopped } }
  | .stopped => s

/-- R154: the transport fails while the worker runs: its loop ends and the fault is to be surfaced (log 17). -/
def State.portError (s : State) : State :=
  if s.worker.phase = .running then
    { s with
      worker := { phase := .draining, serving := .free }
      driver := { s.driver with portFault := true } }
  else s

end Sys2Proof.Machine
end

