-- ==== Sys2Proof/Machine/Schedule.lean ====
section
/-! DEFINITION. What one move does, and which move is taken when the schedule is empty (logs 3 and 4). -/

namespace Sys2Proof.Machine

open Sys2Proof

/-- R20: the `issue` step on the command waiting at the port. An accepted command leaves the port; while `TX_BUSY = 1`,
or while PortWorker owns the port (R148, log 16), it stays (D17, R191). Bytes that are no command's frame are refused at
the boundary (D29). -/
def State.issueNext (s : State) : Host.Outcome State Fault Refusal :=
  match s.cmd with
  | [] => .next s
  | p :: rest =>
    if s.portOwned = true then .next s
    else
      match p.command with
      | .error why => .refused (.notACommand why)
      | .ok i => if s.txBusy = true then exec i s else exec i { s with cmd := rest }

/-- One move of the schedule. -/
def State.act (s : State) : Move → Host.Outcome State Fault Refusal
  | .issue => s.issueNext
  | .emit => .next s.emit
  | .rxArm => .next s.serveRead
  | .rxByte => .next s.rxByte
  | .rxTimeout => .next s.rxTimeout
  | .reset => .next s.resetBlock
  | .present p => .next (s.present p)
  | .requestRead => .next s.requestRead
  | .readOutputs => .next s
  | .query _ => .next s
  | .lineTake => .next s.lineTake
  | .lineAppend b => .next (s.lineAppend b)
  | .driverOp c => .next (s.driverOp c)
  | .driverRead => .next s.driverRead
  | .terminate => .next s.terminateCall
  | .takeReply => .next s.takeReply
  | .scopeEnter => .next s.scopeEnter
  | .scopeExit _ => .next s.scopeExit
  | .scopeJoin => .next s.scopeJoin
  | .workerStep => .next s.workerStep
  | .portError => .next s.portError

/-- R193, log 4: with nothing scheduled, a step of the block that is enabled; reading the outputs (no change)
where none is. -/
def State.ownMove (s : State) : Move :=
  if s.txBusy = true then .emit
  else if s.portOwned = false ∧ s.cmd ≠ [] then .issue
  else if s.portOwned = false ∧ s.rxState = .idle ∧ 0 < s.arms then .rxArm
  else if s.rxArmed = true ∧ s.rx ≠ [] then .rxByte
  else .readOutputs

/-- The next move, and the state without it. -/
def State.nextMove (s : State) : Move × State :=
  match s.sched with
  | m :: rest => (m, { s with sched := rest })
  | [] => (s.ownMove, s)

/-- Log 2: a command presented in its wire form at the front of the `cmd` port, and an `issue` step next. -/
def State.presentFirst (s : State) (bytes : Bytes) : State :=
  { s with cmd := .wire bytes :: s.cmd, sched := .issue :: s.sched }

end Sys2Proof.Machine
end

