-- ==== Sys2Proof/Machine/Step.lean ====
section
/-! DEFINITION. One step of the machine: the next move of the schedule (logs 3, 4). -/

namespace Sys2Proof.Machine

open Sys2Proof

/-- One step. -/
def step (s : State) : Host.Outcome State Fault Refusal := s.nextMove.2.act s.nextMove.1

/-- The state in which the very next step fetches and runs the instruction of an opcode-table word (logs 1, 2). -/
def State.withFetchWord (s : State) (nbits w : Nat) : State := s.presentFirst (tableFrame nbits w)

end Sys2Proof.Machine
end

