-- ==== Sys2Proof/Machine/FontQueries.lean ====
section
/-! DEFINITION. The two font-fit queries of `43_font_queries.md` (R115, R116): combinational, over the
constant tables. -/

namespace Sys2Proof.Machine

open Sys2Proof

/-- R115: the greatest index whose height fits, or "no fit". -/
def largestFontForHeight (F : Fonts) (h : Int) : Option Nat :=
  (((List.finRange 10).filter (fun i => decide ((F.height i : Int) ≤ h))).map (fun i => i.val)).max?

/-- R116: the greatest index whose width times `n` fits, or "no fit". -/
def largestFontForWidth (F : Fonts) (w : Int) (n : Nat) : Option Nat :=
  (((List.finRange 10).filter (fun i => decide ((F.width i * n : Nat) ≤ w))).map (fun i => i.val)).max?

/-- R11: the port `font_query`. -/
def fontQuery : FontQuery → Option Nat
  | .forHeight h => largestFontForHeight Config.fonts h
  | .forWidth w n => largestFontForWidth Config.fonts w n

end Sys2Proof.Machine
end

