-- ==== Sys2Proof/Machine/Recognizer.lean ====
section
/-! DEFINITION. The pure reply-frame recognizer of `44_frame_decoder.md` R120. The byte-serial agent DEC is in
Ops.lean (R125 to R129). -/

namespace Sys2Proof.Machine

open Sys2Proof

/-- R120: the answer of `recognize`. -/
inductive Recognition where
  | incomplete
  | complete (preamble head body tail remainder : Bytes)
deriving DecidableEq, Repr

/-- R120: the buffer split at its first prefix byte, the byte itself left out. -/
def splitAtPrefix : Bytes → Option (Bytes × Bytes)
  | [] => none
  | b :: bs =>
    if b = Config.prefixByte then some ([], bs)
    else
      match splitAtPrefix bs with
      | some (pre, rest) => some (b :: pre, rest)
      | none => none

/-- R120: the bytes after the prefix split at the first suffix, the suffix itself left out. -/
def splitAtSuffix : Bytes → Option (Bytes × Bytes)
  | [] => none
  | b :: bs =>
    if (b :: bs).take 4 = Config.suffix then some ([], (b :: bs).drop 4)
    else
      match splitAtSuffix bs with
      | some (body, rest) => some (b :: body, rest)
      | none => none

/-- R120: `recognize(buf)`. -/
def recognize (buf : Bytes) : Recognition :=
  match splitAtPrefix buf with
  | none => .incomplete
  | some (pre, rest) =>
    match splitAtSuffix rest with
    | none => .incomplete
    | some (body, remainder) => .complete pre [Config.prefixByte] body Config.suffix remainder

end Sys2Proof.Machine
end

