-- ==== Sys2Proof/Safety.lean ====
section
/-! DEFINITION. What holds in every state of a run, and the terms the claims use. -/

namespace Sys2Proof.Machine

open Sys2Proof

/-- R12, R13, R15, R45: the index stays within the buffer, the buffer is empty or one frame, and the reply flag is
that of the frame in the buffer. -/
def State.encInv (s : State) : Bool :=
  decide (s.txIdx ≤ s.txBuf.length) && (s.txBuf.isEmpty || framed s.txBuf) &&
    (s.txReply == frameExpectsReply s.txBuf)

/-- R17 to R19: what each decoder state says of the bytes taken since arming. -/
def State.rxBuffersInv (s : State) : Bool :=
  match s.rxState with
  | .idle => s.rxPre.isEmpty && s.rxBody.isEmpty
  | .hunt => s.rxBody.isEmpty && !s.rxPre.contains Config.prefixByte && s.rxRes == .none
  | .body => !s.rxPre.contains Config.prefixByte && (splitAtSuffix s.rxBody).isNone && s.rxRes == .none

/-- R22, R120: a reported frame is what `recognize` makes of its own bytes. -/
def State.rxResInv (s : State) : Bool :=
  match s.rxRes with
  | .none => true
  | .noResponse => true
  | .frame pre body =>
    recognize (pre ++ wrap body) == .complete pre [Config.prefixByte] body Config.suffix []

/-- R148: a transmit and a read of the worker never overlap. -/
def State.portInv (s : State) : Bool :=
  (s.worker.serving != .writing || s.rxState == .idle) && (s.worker.serving != .reading || !s.txBusy)

/-- R153, R154: how the scoped handle, the worker and the queue go together: the worker starts with the scope, a scope
being left has signalled termination, a scope that has been left has a stopped worker and has returned, and a PortError
has ended the worker's loop. -/
def State.scopeInv (s : State) : Bool :=
  ((s.driver.scope == .notEntered) == (s.worker.phase == .idle)) &&
    (s.driver.scope != .leaving || s.queue.term) &&
    (s.driver.scope != .left || s.worker.phase == .stopped) &&
    (s.driver.exitResult.isSome == (s.driver.scope == .left)) &&
    (!s.driver.portFault || s.worker.phase == .draining || s.worker.phase == .stopped)

/-- R140, R149: queued and taken items are whole frames, and only a running worker has an item. -/
def State.envInv (s : State) : Bool :=
  s.queue.tx.all framed &&
    (match s.worker.serving with
     | .toWrite frame => framed frame
     | .free => true
     | .writing => true
     | .toRead => true
     | .reading => true) &&
    (s.worker.phase == .running || s.worker.serving == .free) && s.portInv && s.scopeInv

/-- The invariant of the machine. -/
def State.inv (s : State) : Bool := s.encInv && s.rxBuffersInv && s.rxResInv && s.envInv

/-- What is presented is a command (D29). -/
def Presented.isCommand (p : Presented) : Bool :=
  match p.command with
  | .ok _ => true
  | .error _ => false

/-- A move that presents something presents a command. -/
def Move.presentsCommand : Move → Bool
  | .present p => p.isCommand
  | _ => true

/-- D29: everything waiting at the `cmd` port, and everything the schedule presents, is a command. -/
def State.commandsOnly (s : State) : Bool :=
  s.cmd.all Presented.isCommand && s.sched.all Move.presentsCommand

/-- R194, R195: a move by which the host, or a caller of the driver, presents something further to the block: a command,
a read request, a reset. Arrivals in `RX`, removals from `TX`, reading the outputs and queries present nothing; the steps
of the block, of the worker and of the scope present only what is already counted (log 26). -/
def Move.presents : Move → Bool
  | .present _ => true
  | .requestRead => true
  | .reset => true
  | .driverOp _ => true
  | .issue => false
  | .emit => false
  | .rxArm => false
  | .rxByte => false
  | .rxTimeout => false
  | .readOutputs => false
  | .query _ => false
  | .lineTake => false
  | .lineAppend _ => false
  | .driverRead => false
  | .terminate => false
  | .takeReply => false
  | .scopeEnter => false
  | .scopeExit _ => false
  | .scopeJoin => false
  | .workerStep => false
  | .portError => false

/-- R143, R148: the environment still has a frame or a read for the block: in the worker's hands and not begun, or waiting
in the queue, or owed to it, while the worker can still take it. -/
def State.workerPresents (s : State) : Bool :=
  (s.worker.phase == .idle || s.worker.phase == .running) &&
    ((match s.worker.serving with
      | .toWrite _ => true
      | .toRead => true
      | .free => false
      | .writing => false
      | .reading => false) ||
     (!s.queue.term && (!s.queue.tx.isEmpty || decide (0 < s.queue.rd) || decide (0 < s.driver.owedReads))))

/-- R194: the host presents something further: it holds a command or a read request at a port, its environment has an item
for the block, or the schedule has such a move. -/
def State.hostPresents (s : State) : Bool :=
  !s.cmd.isEmpty || decide (0 < s.arms) || s.workerPresents || s.sched.any Move.presents

/-- R194: the run has ended: the block is quiescent and the host presents nothing further (log 26). -/
def State.ended (s : State) : Bool := s.quiescent && !s.hostPresents

/-- R54: a channel, or a luminance, that the quantizer admits. -/
abbrev legalChannel (c : NUM) : Prop := 0 ≤ c ∧ c ≤ 1

/-- R161: a colour whose three channels are admitted. -/
abbrev legalColor (c : Color) : Prop := legalChannel c.r ∧ legalChannel c.g ∧ legalChannel c.b

/-- R161: an absent background, or an admitted one. -/
abbrev legalBackground (bg : Option Color) : Prop := ∀ c ∈ bg, legalColor c

/-- R49: an integer that an unsigned field of `n` bytes holds. -/
abbrev fitsU (n : Nat) (v : Int) : Prop := 0 ≤ v ∧ v < 2 ^ (8 * n)

/-- R58: 7-bit-clean text. -/
abbrev asciiText (t : Text) : Prop := ∀ ch ∈ t, ch ≤ 127

/-- R54, R55: the colour word as an arithmetic expression, red highest. -/
def colorWord (c : Color) : Nat :=
  ⌊31 * c.r + 1 / 2⌋.toNat * 2 ^ 11 + ⌊63 * c.g + 1 / 2⌋.toNat * 2 ^ 5 + ⌊31 * c.b + 1 / 2⌋.toNat

/-- R59: the background word: 0 when there is no background. -/
def backgroundWord : Option Color → Nat
  | none => 0
  | some c => colorWord c

/-- R143: the items that `n` successive `take()`s return, up to the first that blocks. -/
def Queue.takes : Nat → Queue → List WorkItem
  | 0, _ => []
  | n + 1, q =>
    match q.take with
    | none => []
    | some (item, q') => item :: Queue.takes n q'

/-- R142, R144: a queue operation of a caller: a transmit item, or (`none`) a read request. -/
def Queue.insert (q : Queue) : Option Bytes → Queue
  | some frame => q.putTransmit frame
  | none => q.putReadRequest

/-- R85: the decoder after `n` steps `rx_byte`. -/
def State.rxBytes : Nat → State → State
  | 0, s => s
  | n + 1, s => State.rxBytes n s.rxByte

end Sys2Proof.Machine
end

