-- ==== Sys2Proof/Certificates/Slice0/Obligations.lean ====
section
/-! DEFINITION. The statements for the provers. -/

open Sys2Proof Sys2Proof.Machine

/-- Decode and encode agree: the decoder reads every well-formed command back from its frame, whatever the font
tables.
That the decoder answers the command on the quantization grid is the model's choice (log 7). -/
def Obligations.DecodeEncodeRoundTrip : Prop :=
  ∀ (F : Fonts) (i : Instr), wellFormedWith F i = true → decodeWith F (encodeWith F i) = .ok i

/-- Every byte sequence has at most one meaning: what decodes is well formed and is encoded by the very bytes.
Which command a frame is read back to, and which commands are well formed, is the model's choice (log 7). -/
def Obligations.EncodeDecodeRoundTrip : Prop :=
  ∀ (F : Fonts) (bytes : Bytes) (i : Instr), decodeWith F bytes = .ok i →
    wellFormedWith F i = true ∧ encodeWith F i = bytes

/-- R47 against the layouts of R60: on a well-formed command the block's range-checked serializer gives the
layout's frame.
Which commands are well formed is the model's choice (log 7). -/
def Obligations.BlockEncoderMatchesLayouts : Prop :=
  ∀ (F : Fonts) (i : Instr), wellFormedWith F i = true → encodeCommandWith F i = .ok (encodeWith F i)

/-- R62, first point: whatever the block emits is a frame of the opcode map, of the command that was presented.
The decoder is the model's (log 7). -/
def Obligations.EmittedFramesDecode : Prop :=
  ∀ (F : Fonts) (c : Instr) (frame : Bytes), encodeCommandWith F c = .ok frame →
    ∃ i, decodeWith F frame = .ok i ∧ encodeWith F i = frame ∧ commandByte i = commandByte c

/-- R45, R61: prefix, command byte, suffix and total length of every frame the block builds. -/
def Obligations.FrameShapeAndLength : Prop :=
  ∀ (F : Fonts) (c : Instr) (frame : Bytes), encodeCommandWith F c = .ok frame →
    (∃ rest, frame = wrap (commandByte c :: rest)) ∧ frame.length = frameLength c ∧ framed frame = true

/-- Frames written out byte by byte from R60 decode to their commands. That the decoder answers the command on the
quantization grid is the model's choice (log 7), and the bit positions of the colour word are the spec's decision D6
(log 10). -/
def Obligations.WrittenFramesDecode : Prop :=
  decode [0xAA, 0x00, 0xCC, 0x33, 0xC3, 0x3C] = .ok .handshake ∧
  decode [0xAA, 0x34, 0x5A, 0xA5, 0x03, 0xCC, 0x33, 0xC3, 0x3C] = .ok (.setRotation 270) ∧
  decode [0xAA, 0x01, 0xF8, 0x00, 0xCC, 0x33, 0xC3, 0x3C] = .ok (.clearFrame ⟨1, 0, 0⟩) ∧
  decode [0xAA, 0x21, 0x00, 0x28, 0x00, 0x3C, 0x04, 0x68, 0x74, 0xCC, 0x33, 0xC3, 0x3C] =
    .ok (.drawQr 40 60 [0x68, 0x74] 4) ∧
  decode [0xAA, 0x22, 0x00, 0x07, 0xCC, 0x33, 0xC3, 0x3C] = .ok (.loadJpeg 7)

/-- R20: all of the `issue` step, for every command: not enabled while busy, loading the frame on success,
setting `S.ESTAT` alone on error; every field not named is unchanged. -/
def Obligations.IssueStep : Prop :=
  ∀ (c : Instr) (s : State),
    (s.txBusy = true → exec c s = .next s) ∧
    (s.txBusy = false → ∀ frame, encodeCommand c = .ok frame →
      exec c s = .next { s with txBuf := frame, txIdx := 0, txReply := replyExpected c, eStat := .ok }) ∧
    (s.txBusy = false → encodeCommand c = .error .domain → exec c s = .next { s with eStat := .domainError }) ∧
    (s.txBusy = false → encodeCommand c = .error .encoding → exec c s = .next { s with eStat := .encodingError })

/-- R80: handshake completes from every idle encoder. -/
def Obligations.HandshakeFrame : Prop :=
  ∀ s : State, s.txBusy = false → exec .handshake s = .next { s with
    txBuf := [0xAA, 0x00, 0xCC, 0x33, 0xC3, 0x3C], txIdx := 0, txReply := true, eStat := .ok }

/-- R83: update_lcd completes from every idle encoder. -/
def Obligations.UpdateLcdFrame : Prop :=
  ∀ s : State, s.txBusy = false → exec .updateLcd s = .next { s with
    txBuf := [0xAA, 0x3D, 0xCC, 0x33, 0xC3, 0x3C], txIdx := 0, txReply := false, eStat := .ok }

/-- R81: set_rotation on the four angles, and on every other. -/
def Obligations.SetRotationFrame : Prop :=
  ∀ (angle : Int) (s : State), s.txBusy = false →
    (∀ k : Nat, k ≤ 3 → angle = 90 * k → exec (.setRotation angle) s = .next { s with
      txBuf := [0xAA, 0x34, 0x5A, 0xA5, BitVec.ofNat 8 k, 0xCC, 0x33, 0xC3, 0x3C]
      txIdx := 0, txReply := true, eStat := .ok }) ∧
    (angle ∉ [0, 90, 180, 270] → exec (.setRotation angle) s = .next { s with eStat := .domainError })

/-- R82: set_backlight on [0, 1], and outside it. -/
def Obligations.SetBacklightFrame : Prop :=
  ∀ (level : NUM) (s : State), s.txBusy = false →
    (0 ≤ level ∧ level ≤ 1 → ⌊31 * level + 1 / 2⌋.toNat ≤ 31 ∧
      exec (.setBacklight level) s = .next { s with
        txBuf := [0xAA, 0x30, BitVec.ofNat 8 ⌊31 * level + 1 / 2⌋.toNat, 0xCC, 0x33, 0xC3, 0x3C]
        txIdx := 0, txReply := false, eStat := .ok }) ∧
    (level < 0 ∨ 1 < level → exec (.setBacklight level) s = .next { s with eStat := .domainError })

/-- R90: clear_frame on a legal colour, and on any other.
The bit positions of the colour word are the spec's decision D6 (log 10). -/
def Obligations.ClearFrameFrame : Prop :=
  ∀ (color : Color) (s : State), s.txBusy = false →
    (legalColor color → exec (.clearFrame color) s = .next { s with
      txBuf := [0xAA, 0x01] ++ beBytes 2 (colorWord color) ++ [0xCC, 0x33, 0xC3, 0x3C]
      txIdx := 0, txReply := false, eStat := .ok }) ∧
    (¬legalColor color → exec (.clearFrame color) s = .next { s with eStat := .domainError })

/-- R91: draw_line; the colour is checked before the coordinates.
Bit positions of the colour word and coordinate order are the spec's decisions D6, D7 (logs 10, 11). -/
def Obligations.DrawLineFrame : Prop :=
  ∀ (x0 y0 x1 y1 : Int) (color : Color) (s : State), s.txBusy = false →
    (legalColor color ∧ fitsU 2 x0 ∧ fitsU 2 y0 ∧ fitsU 2 x1 ∧ fitsU 2 y1 →
      exec (.drawLine x0 y0 x1 y1 color) s = .next { s with
        txBuf := [0xAA, 0x03] ++ beBytes 2 (colorWord color) ++ beBytes 2 x0.toNat ++ beBytes 2 y0.toNat ++
          beBytes 2 x1.toNat ++ beBytes 2 y1.toNat ++ [0xCC, 0x33, 0xC3, 0x3C]
        txIdx := 0, txReply := false, eStat := .ok }) ∧
    (¬legalColor color → exec (.drawLine x0 y0 x1 y1 color) s = .next { s with eStat := .domainError }) ∧
    (legalColor color ∧ ¬(fitsU 2 x0 ∧ fitsU 2 y0 ∧ fitsU 2 x1 ∧ fitsU 2 y1) →
      exec (.drawLine x0 y0 x1 y1 color) s = .next { s with eStat := .encodingError })

/-- R92: draw_rect; mode, then colour, then coordinates.
Bit positions of the colour word, coordinate order and the class for a fill mode are the spec's decisions D6,
D7, D12 (logs 10 to 12). -/
def Obligations.DrawRectFrame : Prop :=
  ∀ (x0 y0 x1 y1 : Int) (color : Color) (fillMode : Int) (s : State), s.txBusy = false →
    (fillMode ∈ [0, 1, 2] ∧ legalColor color ∧ fitsU 2 x0 ∧ fitsU 2 y0 ∧ fitsU 2 x1 ∧ fitsU 2 y1 →
      exec (.drawRect x0 y0 x1 y1 color fillMode) s = .next { s with
        txBuf := [0xAA, 0x05, BitVec.ofNat 8 fillMode.toNat] ++ beBytes 2 (colorWord color) ++
          beBytes 2 x0.toNat ++ beBytes 2 y0.toNat ++ beBytes 2 x1.toNat ++ beBytes 2 y1.toNat ++
          [0xCC, 0x33, 0xC3, 0x3C]
        txIdx := 0, txReply := false, eStat := .ok }) ∧
    (¬(fillMode ∈ [0, 1, 2] ∧ legalColor color) →
      exec (.drawRect x0 y0 x1 y1 color fillMode) s = .next { s with eStat := .domainError }) ∧
    (fillMode ∈ [0, 1, 2] ∧ legalColor color ∧ ¬(fitsU 2 x0 ∧ fitsU 2 y0 ∧ fitsU 2 x1 ∧ fitsU 2 y1) →
      exec (.drawRect x0 y0 x1 y1 color fillMode) s = .next { s with eStat := .encodingError })

/-- R93: load_jpeg on a byte, and on any other id. -/
def Obligations.LoadJpegFrame : Prop :=
  ∀ (id : Int) (s : State), s.txBusy = false →
    (0 ≤ id ∧ id ≤ 255 → exec (.loadJpeg id) s = .next { s with
      txBuf := [0xAA, 0x22, 0x00, BitVec.ofNat 8 id.toNat, 0xCC, 0x33, 0xC3, 0x3C]
      txIdx := 0, txReply := false, eStat := .ok }) ∧
    (id < 0 ∨ 255 < id → exec (.loadJpeg id) s = .next { s with eStat := .encodingError })

/-- R100, R101: draw_string; font, fg, bg, then x, y, text.
Bit positions, flags, background bytes and error classes are the spec's decisions D6, D8 to D10, D12 to D14
(logs 10 to 12). -/
def Obligations.DrawStringFrame : Prop :=
  ∀ (x y : Int) (text : Text) (font : Int) (fg : Color) (bg : Option Color) (fixedWidth : Bool) (s : State),
    s.txBusy = false →
    ((0 ≤ font ∧ font ≤ 9) ∧ legalColor fg ∧ legalBackground bg ∧ fitsU 2 x ∧ fitsU 2 y ∧ asciiText text →
      exec (.drawString x y text font fg bg fixedWidth) s = .next { s with
        txBuf := [0xAA, 0x11, BitVec.ofNat 8
            ((if fixedWidth = true then 0 else 128) + (if bg = none then 0 else 64) + font.toNat)] ++
          beBytes 2 (colorWord fg) ++ beBytes 2 (backgroundWord bg) ++ beBytes 2 x.toNat ++
          beBytes 2 y.toNat ++ text.map (BitVec.ofNat 8) ++ [0xCC, 0x33, 0xC3, 0x3C]
        txIdx := 0, txReply := false, eStat := .ok }) ∧
    (¬((0 ≤ font ∧ font ≤ 9) ∧ legalColor fg ∧ legalBackground bg) →
      exec (.drawString x y text font fg bg fixedWidth) s = .next { s with eStat := .domainError }) ∧
    ((0 ≤ font ∧ font ≤ 9) ∧ legalColor fg ∧ legalBackground bg ∧
        ¬(fitsU 2 x ∧ fitsU 2 y ∧ asciiText text) →
      exec (.drawString x y text font fg bg fixedWidth) s = .next { s with eStat := .encodingError })

/-- R104 to R107: draw_number; font, fg, bg, then the counts, the shifted x, y and the value.
Bit positions, flags, background bytes, counts and error classes are the spec's decisions D6, D9 to D14
(logs 10 to 12). -/
def Obligations.DrawNumberFrame : Prop :=
  ∀ (x y : Int) (value : NUM) (font : Int) (fg : Color) (bg : Option Color) (signed : Bool)
    (digits decimals : Int) (leftAdjust zeroPad : Bool) (s : State) (v xw : Int), s.txBusy = false →
    v = roundHaz (value * 10 ^ decimals.toNat) →
    xw = (if signed = true ∧ leftAdjust = false ∧ 0 ≤ v
      then x + Config.fonts.width (Fin.ofNat 10 font.toNat) else x) →
    ((0 ≤ font ∧ font ≤ 9) ∧ legalColor fg ∧ legalBackground bg ∧ fitsU 1 digits ∧ fitsU 1 decimals ∧
        fitsU 2 xw ∧ fitsU 2 y ∧
        (if signed = true then -2147483648 ≤ v ∧ v ≤ 2147483647 else 0 ≤ v ∧ v ≤ 4294967295) →
      exec (.drawNumber x y value font fg bg signed digits decimals leftAdjust zeroPad) s = .next { s with
        txBuf := [0xAA, 0x14, BitVec.ofNat 8
            ((if bg = none then 0 else 128) + (if signed = true then 64 else 0) +
              (if leftAdjust = true then 0 else 32) + (if zeroPad = true then 16 else 0) + font.toNat)] ++
          beBytes 2 (colorWord fg) ++ beBytes 2 (backgroundWord bg) ++
          [BitVec.ofNat 8 digits.toNat, BitVec.ofNat 8 decimals.toNat] ++ beBytes 2 xw.toNat ++
          beBytes 2 y.toNat ++ beBytes 4 (v % 2 ^ 32).toNat ++ [0xCC, 0x33, 0xC3, 0x3C]
        txIdx := 0, txReply := false, eStat := .ok }) ∧
    (¬((0 ≤ font ∧ font ≤ 9) ∧ legalColor fg ∧ legalBackground bg) →
      exec (.drawNumber x y value font fg bg signed digits decimals leftAdjust zeroPad) s =
        .next { s with eStat := .domainError }) ∧
    ((0 ≤ font ∧ font ≤ 9) ∧ legalColor fg ∧ legalBackground bg ∧
        ¬(fitsU 1 digits ∧ fitsU 1 decimals ∧ fitsU 2 xw ∧ fitsU 2 y ∧
          (if signed = true then -2147483648 ≤ v ∧ v ≤ 2147483647 else 0 ≤ v ∧ v ≤ 4294967295)) →
      exec (.drawNumber x y value font fg bg signed digits decimals leftAdjust zeroPad) s =
        .next { s with eStat := .encodingError })

/-- R108: draw_qr; every failure is an EncodingError. -/
def Obligations.DrawQrFrame : Prop :=
  ∀ (x y : Int) (text : Text) (pixelSize : Int) (s : State), s.txBusy = false →
    (fitsU 2 x ∧ fitsU 2 y ∧ fitsU 1 pixelSize ∧ asciiText text →
      exec (.drawQr x y text pixelSize) s = .next { s with
        txBuf := [0xAA, 0x21] ++ beBytes 2 x.toNat ++ beBytes 2 y.toNat ++ [BitVec.ofNat 8 pixelSize.toNat] ++
          text.map (BitVec.ofNat 8) ++ [0xCC, 0x33, 0xC3, 0x3C]
        txIdx := 0, txReply := false, eStat := .ok }) ∧
    (¬(fitsU 2 x ∧ fitsU 2 y ∧ fitsU 1 pixelSize ∧ asciiText text) →
      exec (.drawQr x y text pixelSize) s = .next { s with eStat := .encodingError })

/-- R101: the draw-string flags byte, bit by bit.
The relations to the operands are the spec's decisions D8 to D10 (log 11). -/
def Obligations.StringFlagsBits : Prop :=
  ∀ (fixedWidth drawBg : Bool) (font : Nat), font ≤ 9 →
    stringFlags fixedWidth drawBg font < 256 ∧
    (stringFlags fixedWidth drawBg font).testBit 7 = !fixedWidth ∧
    (stringFlags fixedWidth drawBg font).testBit 6 = drawBg ∧
    stringFlags fixedWidth drawBg font / 16 % 4 = 0 ∧
    stringFlags fixedWidth drawBg font % 16 = font

/-- R107: the draw-number flags byte, bit by bit.
The relations to the operands are the spec's decisions D9, D10 (log 11). -/
def Obligations.NumberFlagsBits : Prop :=
  ∀ (drawBg signed leftAdjust zeroPad : Bool) (font : Nat), font ≤ 9 →
    numberFlags drawBg signed leftAdjust zeroPad font < 256 ∧
    (numberFlags drawBg signed leftAdjust zeroPad font).testBit 7 = drawBg ∧
    (numberFlags drawBg signed leftAdjust zeroPad font).testBit 6 = signed ∧
    (numberFlags drawBg signed leftAdjust zeroPad font).testBit 5 = !leftAdjust ∧
    (numberFlags drawBg signed leftAdjust zeroPad font).testBit 4 = zeroPad ∧
    numberFlags drawBg signed leftAdjust zeroPad font % 16 = font

/-- R49, R33: the scalar encoders at the four widths: in range exactly `n` bytes that read back, big-endian, as the
value (in two's complement for the signed one); out of range EncodingError.
That an unsigned value out of range is an EncodingError is the spec's decision D13 (log 12). -/
def Obligations.ScalarEncoders : Prop :=
  ∀ n ∈ [1, 2, 4, 8], ∀ v : Int,
    (0 ≤ v ∧ v < 2 ^ (8 * n) → ∃ bs, encU n v = .ok bs ∧ bs.length = n ∧ (beNat bs : Int) = v) ∧
    (¬(0 ≤ v ∧ v < 2 ^ (8 * n)) → encU n v = .error .encoding) ∧
    (-2 ^ (8 * n - 1) ≤ v ∧ v < 2 ^ (8 * n - 1) →
      ∃ bs, encS n v = .ok bs ∧ bs.length = n ∧ signExtend (8 * n) (beNat bs) = v) ∧
    (¬(-2 ^ (8 * n - 1) ≤ v ∧ v < 2 ^ (8 * n - 1)) → encS n v = .error .encoding)

/-- R54: the quantizer, with the consequences the rule lists. -/
def Obligations.ChannelQuantizer : Prop :=
  ∀ max ∈ [31, 63],
    (∀ c : NUM, 0 ≤ c ∧ c ≤ 1 → ∃ q : Nat, quant max c = .ok q ∧ (q : Int) = ⌊(max : NUM) * c + 1 / 2⌋ ∧
      q ≤ max ∧ |(q : NUM) / max - c| ≤ 1 / (2 * max)) ∧
    (∀ c : NUM, c < 0 ∨ 1 < c → quant max c = .error .domain) ∧
    quant max 0 = .ok 0 ∧ quant max 1 = .ok max ∧
    (∀ (c d : NUM) (p q : Nat), c ≤ d → quant max c = .ok p → quant max d = .ok q → p ≤ q) ∧
    (∀ (c : NUM) (k : Nat), 0 ≤ c ∧ c ≤ 1 → (max : NUM) * c + 1 / 2 = k → quant max c = .ok k)

/-- R55: the three channels stand in bits 15:11, 10:5 and 4:0 of the big-endian colour word. The bit positions are
the spec's decision D6, taken from general knowledge (G4, log 10). -/
def Obligations.ColourWordFields : Prop :=
  ∀ (c : Color) (bs : Bytes), encColor c = .ok bs →
    bs.length = 2 ∧
    quant 31 c.r = .ok (beNat bs / 2 ^ 11) ∧
    quant 63 c.g = .ok (beNat bs / 2 ^ 5 % 2 ^ 6) ∧
    quant 31 c.b = .ok (beNat bs % 2 ^ 5)

/-- R56: `round_haz` is a nearest integer, and at a tie the one farther from zero; on non-negative numbers it is
`floor(q + 1/2)`. -/
def Obligations.RoundHalfAwayFromZero : Prop :=
  ∀ q : NUM, |(roundHaz q : NUM) - q| ≤ 1 / 2 ∧
    (|(roundHaz q : NUM) - q| = 1 / 2 → |q| < |(roundHaz q : NUM)|) ∧
    (0 ≤ q → roundHaz q = ⌊q + 1 / 2⌋)

/-- R57: the luminance byte is at most `1F` and is `round_haz(31 * l)`; outside [0, 1] DomainError. -/
def Obligations.LuminanceByte : Prop :=
  ∀ l : NUM,
    (0 ≤ l ∧ l ≤ 1 → ∃ b : Byte, encLuminance l = .ok [b] ∧ b.toNat ≤ 31 ∧ (b.toNat : Int) = roundHaz (31 * l)) ∧
    (l < 0 ∨ 1 < l → encLuminance l = .error .domain)

/-- R58: the text encoder; 7-bit-clean text goes through byte for byte and cannot hold the suffix, any other text
is an EncodingError. -/
def Obligations.TextEncoder : Prop :=
  ∀ t : Text,
    (asciiText t → ∃ bs, encText t = .ok bs ∧ bs.map BitVec.toNat = t ∧
      ∀ k, (bs.drop k).take 4 ≠ Config.suffix) ∧
    (¬asciiText t → encText t = .error .encoding)

/-- R48: exactly handshake and set_rotation expect a reply. -/
def Obligations.ReplyExpectedCommands : Prop :=
  ∀ c : Instr, replyExpected c = true ↔ c = .handshake ∨ ∃ angle, c = .setRotation angle

/-- R21, R44: `emit` appends the byte at the index to `TX` and advances the index by one, or is not enabled when no
byte is pending; all else is unchanged.
That a step which is not enabled changes nothing is log 5. -/
def Obligations.EmitStep : Prop :=
  ∀ s : State,
    (∀ h : s.txIdx < s.txBuf.length, s.act .emit = .next { s with
      tx := s.tx ++ [s.txBuf[s.txIdx]], txIdx := s.txIdx + 1 }) ∧
    (s.txBuf.length ≤ s.txIdx → s.act .emit = .next s)

/-- R21, R194: left alone, the encoder runs to quiescence in as many steps as it has bytes pending, and the bytes
stand on `TX` in order; nothing else changes.
That an empty schedule takes `emit` first is the model's choice (log 4). -/
def Obligations.EmitsToQuiescence : Prop :=
  ∀ s : State, s.sched = [] → s.txIdx ≤ s.txBuf.length →
    Sys2Proof.core.run (s.txBuf.length - s.txIdx) s =
      .next { s with tx := s.tx ++ s.txBuf.drop s.txIdx, txIdx := s.txBuf.length }

/-- R40, R21: every step but a reset appends at most one byte to what the line has seen, and what is on the wire or
pending grows by nothing or, where nothing was pending, by one whole frame at its end: frames are contiguous, in order, one
in flight.
Keeping the whole of `TX` across the line's removals is log 13. -/
def Obligations.FramesContiguousInOrder : Prop :=
  ∀ s s' : State, s.inv = true → s.sched.head? ≠ some .reset → step s = .next s' →
    (∃ e : Bytes, e.length ≤ 1 ∧ s'.wire = s.wire ++ e) ∧
    (∃ f : Bytes, (f = [] ∨ s.pending = [] ∧ framed f = true) ∧ s'.wire ++ s'.pending = s.wire ++ s.pending ++ f)

/-- The invariant of R12, R13, R15, R17 to R19, R22, R148 (a transmit and a read of the worker never
overlap), R149, R153 and R154 is kept by every step.
The reply flag after a worker's write is log 16. -/
def Obligations.StepKeepsInvariant : Prop :=
  ∀ s s' : State, s.inv = true → step s = .next s' → s'.inv = true

/-- The invariant holds after reset.
The initial values of the environment are the model's choice (log 15). -/
def Obligations.ResetHasInvariant : Prop := State.reset.inv = true

/-- R180, R181: the event `reset` gives the block's eight fields their reset values from every state, and touches
nothing else: not the streams, not what the host holds at the ports, not the environment (log 14). -/
def Obligations.ResetEvent : Prop :=
  ∀ s : State, s.act .reset = .next { s with
    txBuf := [], txIdx := 0, txReply := false, eStat := .ok
    rxState := .idle, rxPre := [], rxBody := [], rxRes := .none }

/-- R125: `rx_arm` in IDLE, and not enabled otherwise; `RX` is not flushed. -/
def Obligations.ArmStep : Prop :=
  ∀ s : State,
    (s.rxState = .idle → s.rxArm = { s with rxPre := [], rxBody := [], rxRes := .none, rxState := .hunt }) ∧
    (s.rxState ≠ .idle → s.rxArm = s)

/-- R125, R148, R191 with the model's waiting requests (log 5): an `rx_arm` move serves one waiting request when DEC is
idle and PortWorker does not own the port, and leaves it waiting while a read is in progress or the worker owns the port
(log 16). -/
def Obligations.WaitingReadIsServed : Prop :=
  ∀ s : State,
    (s.portOwned = false → s.rxState = .idle → 0 < s.arms → s.act .rxArm = .next { s with
      arms := s.arms - 1, rxPre := [], rxBody := [], rxRes := .none, rxState := .hunt }) ∧
    (s.rxState ≠ .idle ∨ s.arms = 0 ∨ s.worker.phase = .running ∨ s.worker.phase = .draining →
      s.act .rxArm = .next s)

/-- R126: `rx_byte` in HUNT. -/
def Obligations.HuntByteStep : Prop :=
  ∀ (s : State) (b : Byte) (rest : Bytes), s.rxState = .hunt → s.rx = b :: rest →
    (b = 0xAA → s.act .rxByte = .next { s with rx := rest, rxState := .body }) ∧
    (b ≠ 0xAA → s.act .rxByte = .next { s with rx := rest, rxPre := s.rxPre ++ [b] })

/-- R127, R128: `rx_byte` in BODY, completing the frame or not. -/
def Obligations.BodyByteStep : Prop :=
  ∀ (s : State) (b : Byte) (rest : Bytes), s.rxState = .body → s.rx = b :: rest →
    (∀ body, s.rxBody ++ [b] = body ++ [0xCC, 0x33, 0xC3, 0x3C] → s.act .rxByte = .next { s with
      rx := rest, rxRes := .frame s.rxPre body, rxBody := [], rxPre := [], rxState := .idle }) ∧
    ((∀ body, s.rxBody ++ [b] ≠ body ++ [0xCC, 0x33, 0xC3, 0x3C]) →
      s.act .rxByte = .next { s with rx := rest, rxBody := s.rxBody ++ [b] })

/-- R31: DEC takes no byte while IDLE or while `RX` is empty.
That the step then changes nothing is log 5. -/
def Obligations.IdleDecoderTakesNothing : Prop :=
  ∀ s : State, s.rxState = .idle ∨ s.rx = [] → s.act .rxByte = .next s

/-- R129: `rx_timeout` while a read is armed, and not enabled in IDLE. -/
def Obligations.TimeoutStep : Prop :=
  ∀ s : State,
    (s.rxState = .hunt ∨ s.rxState = .body → s.act .rxTimeout = .next { s with
      rxRes := .noResponse, rxPre := [], rxBody := [], rxState := .idle }) ∧
    (s.rxState = .idle → s.act .rxTimeout = .next s)

/-- R131, R130: the bytes an armed read is offered leave DEC where `recognize` says: on `incomplete` all are taken
and the read is still armed; on `complete` the frame is reported and the remainder stays in `RX`. -/
def Obligations.DecoderAgreesWithRecognize : Prop :=
  ∀ (s : State) (t later : Bytes), s.rxState = .hunt → s.rxPre = [] → s.rxBody = [] → s.rx = t ++ later →
    (recognize t = .incomplete →
      (State.rxBytes t.length s).rx = later ∧ (State.rxBytes t.length s).rxRes = s.rxRes ∧
      ((State.rxBytes t.length s).rxState = .hunt ↔ (0xAA : Byte) ∉ t) ∧
      ((State.rxBytes t.length s).rxState = .body ↔ (0xAA : Byte) ∈ t)) ∧
    (∀ pre head body tail rem, recognize t = .complete pre head body tail rem →
      State.rxBytes (t.length - rem.length) s = { s with
        rx := rem ++ later, rxRes := .frame pre body, rxPre := [], rxBody := [], rxState := .idle } ∧
      State.rxBytes t.length s = State.rxBytes (t.length - rem.length) s)

/-- R120: `recognize` reports the first prefix and the first suffix after it, and the parts make up the buffer. -/
def Obligations.RecognizeComplete : Prop :=
  ∀ buf pre head body tail rem : Bytes, recognize buf = .complete pre head body tail rem ↔
    head = [0xAA] ∧ tail = [0xCC, 0x33, 0xC3, 0x3C] ∧ buf = pre ++ head ++ body ++ tail ++ rem ∧
    (0xAA : Byte) ∉ pre ∧
    ∀ k < body.length, ((body ++ tail ++ rem).drop k).take 4 ≠ [0xCC, 0x33, 0xC3, 0x3C]

/-- R121: `recognize` is `incomplete` exactly when there is no prefix, or no suffix after the first one. -/
def Obligations.RecognizeIncomplete : Prop :=
  ∀ buf : Bytes, recognize buf = .incomplete ↔
    (0xAA : Byte) ∉ buf ∨ ∃ pre rest, buf = pre ++ 0xAA :: rest ∧ (0xAA : Byte) ∉ pre ∧
      ∀ k, (rest.drop k).take 4 ≠ [0xCC, 0x33, 0xC3, 0x3C]

/-- R186: a frame of these six commands is never cut: a receiver built on `recognize` gets its whole payload,
whatever follows. -/
def Obligations.ShortFramesNeverCut : Prop :=
  ∀ (c : Instr) (frame later : Bytes),
    (match c with
     | .handshake => True
     | .setRotation _ => True
     | .setBacklight _ => True
     | .updateLcd => True
     | .clearFrame _ => True
     | .loadJpeg _ => True
     | .drawLine _ _ _ _ _ => False
     | .drawRect _ _ _ _ _ _ => False
     | .drawString _ _ _ _ _ _ _ => False
     | .drawNumber _ _ _ _ _ _ _ _ _ _ _ => False
     | .drawQr _ _ _ _ => False) →
    encodeCommand c = .ok frame →
    ∃ payload, frame = wrap payload ∧
      recognize (frame ++ later) = .complete [] [0xAA] payload [0xCC, 0x33, 0xC3, 0x3C] later

/-- R186, vector H2: draw_qr at x = 0xCC33, y = 0xC33C is accepted whenever its other operands are in range, and a
receiver built on `recognize` cuts every such frame to the body `21`, leaving the pixel size, the text and the real
suffix. -/
def Obligations.SuffixHazardOfDrawQr : Prop :=
  ∀ (text : Text) (pixelSize : Int),
    (fitsU 1 pixelSize ∧ asciiText text →
      ∃ frame, encodeCommand (.drawQr 0xCC33 0xC33C text pixelSize) = .ok frame) ∧
    (∀ frame, encodeCommand (.drawQr 0xCC33 0xC33C text pixelSize) = .ok frame →
      recognize frame = .complete [] [0xAA] [0x21] [0xCC, 0x33, 0xC3, 0x3C]
        ([BitVec.ofNat 8 pixelSize.toNat] ++ text.map (BitVec.ofNat 8) ++ [0xCC, 0x33, 0xC3, 0x3C]))

/-- R115: the greatest index whose height fits, or no fit; under R117's facts no height up to 0 fits and every
height from 64 gives 9. -/
def Obligations.LargestFontForHeight : Prop :=
  ∀ (F : Fonts) (h : Int),
    (∀ k, largestFontForHeight F h = some k ↔
      ∃ i : Fin 10, i.val = k ∧ (F.height i : Int) ≤ h ∧ ∀ j : Fin 10, i < j → ¬((F.height j : Int) ≤ h)) ∧
    (largestFontForHeight F h = none ↔ ∀ i : Fin 10, h < F.height i) ∧
    (F.Admissible → (h ≤ 0 → largestFontForHeight F h = none) ∧ (64 ≤ h → largestFontForHeight F h = some 9))

/-- R116: the greatest index whose width times `n` fits, or no fit; for `n = 0` the answer turns on the sign of
`w`. -/
def Obligations.LargestFontForWidth : Prop :=
  ∀ (F : Fonts) (w : Int) (n : Nat),
    (∀ k, largestFontForWidth F w n = some k ↔
      ∃ i : Fin 10, i.val = k ∧ (F.width i : Int) * n ≤ w ∧ ∀ j : Fin 10, i < j → ¬((F.width j : Int) * n ≤ w)) ∧
    (largestFontForWidth F w n = none ↔ ∀ i : Fin 10, w < (F.width i : Int) * n) ∧
    (n = 0 → largestFontForWidth F w n = if 0 ≤ w then some 9 else none)

/-- R10: the encoder's steps leave the decoder's fields and `RX`, the decoder's steps leave the encoder's fields and
`TX`. -/
def Obligations.AgentsShareNoState : Prop :=
  ∀ s s' : State,
    (s.act .issue = .next s' ∨ s.act .emit = .next s' →
      s'.rxState = s.rxState ∧ s'.rxPre = s.rxPre ∧ s'.rxBody = s.rxBody ∧ s'.rxRes = s.rxRes ∧ s'.rx = s.rx) ∧
    (s.act .rxArm = .next s' ∨ s.act .rxByte = .next s' ∨ s.act .rxTimeout = .next s' →
      s'.txBuf = s.txBuf ∧ s'.txIdx = s.txIdx ∧ s'.txReply = s.txReply ∧ s'.eStat = s.eStat ∧ s'.tx = s.tx)

/-- R167: an encoder step and a decoder step give the same state in either order.
The waiting of steps that are not enabled is log 5. -/
def Obligations.AgentStepsCommute : Prop :=
  ∀ (s : State) (encoded : Except EncErr Bytes) (reply : Bool),
    s.emit.rxByte = s.rxByte.emit ∧ s.emit.rxArm = s.rxArm.emit ∧ s.emit.rxTimeout = s.rxTimeout.emit ∧
    (s.issue encoded reply).rxByte = s.rxByte.issue encoded reply ∧
    (s.issue encoded reply).rxArm = s.rxArm.issue encoded reply ∧
    (s.issue encoded reply).rxTimeout = s.rxTimeout.issue encoded reply

/-- A step runs the decoded command. With an `issue` next, or nothing scheduled, the port not the worker's and the
encoder idle, the command at the front of the port leaves it and `exec` runs it; while the encoder is busy, or PortWorker
owns the port (R148), it stays and nothing else changes; bytes that are no command's frame are refused (D29). The
model's way of presenting commands is log 2, the waiting while the worker owns the port log 16. -/
def Obligations.StepRunsDecodedCommand : Prop :=
  ∀ (s : State) (bytes : Bytes) (c : Instr) (rest : List Presented) (ms : List Move),
    (s.cmd = .wire bytes :: rest ∧ decode bytes = .ok c ∨ s.cmd = .value c :: rest →
      (s.sched = .issue :: ms → s.portOwned = false → s.txBusy = false →
        step s = exec c { s with sched := ms, cmd := rest }) ∧
      (s.sched = [] → s.portOwned = false → s.txBusy = false → step s = exec c { s with cmd := rest }) ∧
      (s.sched = .issue :: ms → s.txBusy = true ∨ s.portOwned = true → step s = .next { s with sched := ms })) ∧
    (∀ why, s.cmd = .wire bytes :: rest → decode bytes = .error why → s.sched = .issue :: ms →
      s.portOwned = false → step s = .refused (.notACommand why))

/-- A word of the opcode table, placed where the step fetches, is run by the next step, where the port is not the
worker's and the encoder is idle. The way a word is placed is the model's choice (logs 1, 2). -/
def Obligations.FetchedWordRuns : Prop :=
  ∀ (s : State) (nbits w : Nat) (c : Instr), s.portOwned = false → s.txBusy = false →
    decodeTableWord nbits w = some c → step (s.withFetchWord nbits w) = exec c s

/-- D29, R195: where only commands are presented, every step answers a next state, and in it still only commands
are presented: the machine never stops. -/
def Obligations.CommandsNeverStop : Prop :=
  ∀ s : State, s.commandsOnly = true → ∃ s', step s = .next s' ∧ s'.commandsOnly = true

/-- R31, R195: what the host and the line do at the ports: each touches its own stream or port only, and reading the
outputs or asking a font query changes nothing.
The waiting requests are logs 2 and 5. -/
def Obligations.HostAndLineMoves : Prop :=
  ∀ s : State,
    (∀ b, s.act (.lineAppend b) = .next { s with rx := s.rx ++ [b] }) ∧
    (∀ b rest, s.tx = b :: rest → s.act .lineTake = .next { s with tx := rest, txTaken := s.txTaken ++ [b] }) ∧
    (s.tx = [] → s.act .lineTake = .next s) ∧
    (∀ p, s.act (.present p) = .next { s with cmd := s.cmd ++ [p] }) ∧
    s.act .requestRead = .next { s with arms := s.arms + 1 } ∧
    (∀ q, s.act (.query q) = .next s) ∧
    s.act .readOutputs = .next s

/-- The model's schedule (logs 3, 4): a step performs the first scheduled move and takes it off the schedule; with
nothing scheduled it performs an enabled step of the block, `emit` before `issue` before `rx_arm` before `rx_byte`, the
two that serve a host's request only while the port is not the worker's; where none is enabled nothing changes. A run that
has ended (R194; what counts as presenting something further is log 26) stays so: whatever is still scheduled, the step
answers a next state that has ended too, with the block's eight fields and the whole of `TX` unchanged. -/
def Obligations.StepPerformsNextMove : Prop :=
  ∀ s : State,
    (∀ m ms, s.sched = m :: ms → step s = { s with sched := ms }.act m) ∧
    (s.sched = [] → s.txBusy = true → step s = s.act .emit) ∧
    (s.sched = [] → s.txBusy = false → s.portOwned = false → s.cmd ≠ [] → step s = s.act .issue) ∧
    (s.sched = [] → s.txBusy = false → s.portOwned = false → s.cmd = [] → s.rxState = .idle → 0 < s.arms →
      step s = s.act .rxArm) ∧
    (s.sched = [] → s.txBusy = false → s.portOwned = true ∨ s.cmd = [] → s.rxState ≠ .idle → s.rx ≠ [] →
      step s = s.act .rxByte) ∧
    (s.sched = [] → s.txBusy = false → s.portOwned = true ∨ s.cmd = [] →
      s.rxState ≠ .idle ∧ s.rx = [] ∨ s.rxState = .idle ∧ (s.portOwned = true ∨ s.arms = 0) → step s = .next s) ∧
    (s.ended = true → s.sched = [] → step s = .next s) ∧
    (s.ended = true → ∃ s', step s = .next s' ∧ s'.ended = true ∧
      s'.txBuf = s.txBuf ∧ s'.txIdx = s.txIdx ∧ s'.txReply = s.txReply ∧ s'.eStat = s.eStat ∧
      s'.rxState = s.rxState ∧ s'.rxPre = s.rxPre ∧ s'.rxBody = s.rxBody ∧ s'.rxRes = s.rxRes ∧ s'.wire = s.wire)

/-- R143: `take()`. -/
def Obligations.QueueTake : Prop :=
  ∀ q : Queue,
    (q.term = true → q.take = some (.terminate, q)) ∧
    (∀ b rest, q.term = false → q.tx = b :: rest → q.take = some (.transmit b, { q with tx := rest })) ∧
    (q.term = false → q.tx = [] → 0 < q.rd → q.take = some (.readRequest, { q with rd := q.rd - 1 })) ∧
    (q.take = none ↔ q.term = false ∧ q.tx = [] ∧ q.rd = 0)

/-- R145: whatever the order of the insertions, transmit items come first, in their own order, then the reads.
Insertions before any dequeue, as in R145's example. -/
def Obligations.QueueOrder : Prop :=
  ∀ (ins : List (Option Bytes)) (q : Queue), q = { tx := [], rd := 0, term := false } →
    Queue.takes ins.length (ins.foldl Queue.insert q) =
      (ins.filterMap id).map .transmit ++ List.replicate (ins.countP Option.isNone) .readRequest

/-- R149, R154: the worker moves only along `Idle → Running → Draining → Stopped`, one at a time, `Running → Draining`
only at a termination or a port error, and `Stopped` is terminal.
The grain of the worker's steps and what a port error does are the model's choices (logs 16, 17). -/
def Obligations.WorkerNeverSkipsAState : Prop :=
  ∀ s s' : State, step s = .next s' → s'.worker.phase ≠ s.worker.phase →
    (s.worker.phase = .idle ∧ s'.worker.phase = .running ∧ s.sched.head? = some .scopeEnter) ∨
    (s.worker.phase = .running ∧ s'.worker.phase = .draining ∧
      (s.sched.head? = some .portError ∨
       s.sched.head? = some .workerStep ∧ s.queue.term = true ∧ s.worker.serving = .free)) ∨
    (s.worker.phase = .draining ∧ s'.worker.phase = .stopped ∧ s.sched.head? = some .workerStep)

/-- R146, R143: `terminate()` within the scope sets the termination flag and nothing else, and no step clears it. That it
is called through the scoped handle only (log 24), and surfaces no PortError (log 17), is the model's choice. -/
def Obligations.TerminationIsPermanent : Prop :=
  (∀ s : State, s.driver.scope = .inside →
    s.act .terminate = .next { s with queue := { s.queue with term := true } }) ∧
  (∀ s : State, s.driver.scope ≠ .inside → s.act .terminate = .next s) ∧
  (∀ s s' : State, step s = .next s' → s.queue.term = true →
    s'.queue.term = true ∧ s'.queue.take = some (.terminate, s'.queue))

/-- R150, R153, R154, R155: within the scope a driver operation enqueues the frame and owes a read exactly when a reply
is expected, or returns the error and enqueues nothing, or, after a PortError, returns that and enqueues nothing; outside
the scope there is no handle to perform it on (log 24). The owed read is a second insertion (R152, log 18), also after a
PortError (model's choice, log 18). A caller takes the oldest message of the channel: what a message is, and that
it is handed over so, is the model's choice (log 25). That a PortError is returned by
every later operation, and not by the taking of a message, is log 17. -/
def Obligations.DriverOperation : Prop :=
  ∀ (s : State) (c : Instr),
    (s.driver.scope = .inside → s.driver.portFault = false →
      (∀ frame, encodeCommand c = .ok frame → s.act (.driverOp c) = .next { s with
        queue := { s.queue with tx := s.queue.tx ++ [frame] }
        driver := { s.driver with
          opResult := .ok, owedReads := s.driver.owedReads + (if replyExpected c = true then 1 else 0) } }) ∧
      (encodeCommand c = .error .domain → s.act (.driverOp c) = .next { s with
        driver := { s.driver with opResult := .domainError } }) ∧
      (encodeCommand c = .error .encoding → s.act (.driverOp c) = .next { s with
        driver := { s.driver with opResult := .encodingError } })) ∧
    (s.driver.scope = .inside → s.driver.portFault = true → s.act (.driverOp c) = .next { s with
      driver := { s.driver with opResult := .portError } }) ∧
    (s.driver.scope ≠ .inside → s.act (.driverOp c) = .next s) ∧
    (0 < s.driver.owedReads → s.act .driverRead = .next { s with
      queue := { s.queue with rd := s.queue.rd + 1 }
      driver := { s.driver with owedReads := s.driver.owedReads - 1 } }) ∧
    (∀ r rest, s.replies = r :: rest → s.act .takeReply = .next { s with
      replies := rest, driver := { s.driver with replyTaken := some r } })

/-- R148, R149, R154, R155: the running worker takes what `take()` gives, leaves its loop at Terminate, hands a frame to
ENC as an accepted command's `issue` would (the reply flag read off the command byte is log 16), serves a read request by
arming DEC, both only on a quiescent block, is free again when the block has done its part, and then sends a read's result
to the caller; a PortError ends its loop and is recorded for the driver (log 17). -/
def Obligations.WorkerServesItems : Prop :=
  ∀ s : State, s.worker.phase = .running →
    (∀ (frame : Bytes) (q : Queue), s.worker.serving = .free → s.queue.take = some (.transmit frame, q) →
      s.act .workerStep = .next { s with queue := q, worker := { s.worker with serving := .toWrite frame } }) ∧
    (∀ q : Queue, s.worker.serving = .free → s.queue.take = some (.readRequest, q) →
      s.act .workerStep = .next { s with queue := q, worker := { s.worker with serving := .toRead } }) ∧
    (s.worker.serving = .free → s.queue.term = true →
      s.act .workerStep = .next { s with worker := { s.worker with phase := .draining } }) ∧
    (s.worker.serving = .free → s.queue.take = none → s.act .workerStep = .next s) ∧
    (∀ (c : Instr) (frame : Bytes), encodeCommand c = .ok frame → s.worker.serving = .toWrite frame →
      s.txBusy = false → s.rxState = .idle → s.act .workerStep = .next { s with
        txBuf := frame, txIdx := 0, txReply := replyExpected c, eStat := .ok
        worker := { s.worker with serving := .writing } }) ∧
    (s.worker.serving = .toRead → s.txBusy = false → s.rxState = .idle → s.act .workerStep = .next { s with
      rxPre := [], rxBody := [], rxRes := .none, rxState := .hunt
      worker := { s.worker with serving := .reading } }) ∧
    ((∃ frame, s.worker.serving = .toWrite frame) ∨ s.worker.serving = .toRead →
      s.txBusy = true ∨ s.rxState ≠ .idle → s.act .workerStep = .next s) ∧
    (s.worker.serving = .writing ∧ s.txBusy = true ∨ s.worker.serving = .reading ∧ s.rxState ≠ .idle →
      s.act .workerStep = .next s) ∧
    (s.worker.serving = .writing → s.txBusy = false →
      s.act .workerStep = .next { s with worker := { s.worker with serving := .free } }) ∧
    (s.worker.serving = .reading → s.rxState = .idle → s.act .workerStep = .next { s with
      worker := { s.worker with serving := .free }
      replies := s.replies ++ (match s.rxRes with
        | .none => []
        | .frame pre body => [.frame pre body]
        | .noResponse => [.noResponse]) }) ∧
    s.act .portError = .next { s with
      worker := { phase := .draining, serving := .free }, driver := { s.driver with portFault := true } }

/-- R153, R154: entering the scope starts the worker; leaving it, by whatever path, signals termination; the exit returns
exactly once the worker has stopped, and then surfaces a PortError to the owner; and from every scope being left whose
worker has no item in hand, two steps of the worker and the return of the exit reach a scope that has been left, with the
worker stopped. One scope per run is the model's choice (log 24); so is that the exit returns a PortError whether or not an
operation has returned it before (log 17), and that leaving the loop and stopping are two steps of the worker (log 16). -/
def Obligations.ScopeLifetime : Prop :=
  ∀ s : State,
    (s.driver.scope = .notEntered → s.worker.phase = .idle → s.act .scopeEnter = .next { s with
      worker := { s.worker with phase := .running }, driver := { s.driver with scope := .inside } }) ∧
    (s.driver.scope = .inside → ∀ path, s.act (.scopeExit path) = .next { s with
      queue := { s.queue with term := true }, driver := { s.driver with scope := .leaving } }) ∧
    (s.driver.scope = .leaving → s.worker.phase = .stopped → s.act .scopeJoin = .next { s with
      driver := { s.driver with
        scope := .left, exitResult := some (if s.driver.portFault = true then .portError else .ok) } }) ∧
    (s.driver.scope = .leaving → s.worker.phase ≠ .stopped → s.act .scopeJoin = .next s) ∧
    (∀ ms, s.inv = true → s.driver.scope = .leaving → s.worker.phase = .running → s.worker.serving = .free →
      s.sched = .workerStep :: .workerStep :: .scopeJoin :: ms →
      Sys2Proof.core.run 3 s = .next { s with
        sched := ms
        worker := { s.worker with phase := .stopped }
        driver := { s.driver with scope := .left, exitResult := some .ok } })
end

