-- ==== Sys2Proof/Laws/Operands.lean ====
section
/-! SUPPORT. What the field encoders and the byte-order helpers do; the font tables are exactly the admissible
ones. -/

namespace Sys2Proof.Machine

open Sys2Proof

@[simp] theorem beBytes_length (n v : Nat) : (beBytes n v).length = n := by
  induction n with
  | zero => rfl
  | succ n ih => simp [beBytes, ih]

theorem beNat_append_singleton (bs : Bytes) (b : Byte) : beNat (bs ++ [b]) = beNat bs * 256 + b.toNat := by
  simp [beNat, List.foldl_append]

/-- The fold of `beNat` with a running value. -/
theorem beNat_foldl (bs : Bytes) (acc : Nat) :
    bs.foldl (fun a b => a * 256 + b.toNat) acc = acc * 256 ^ bs.length + beNat bs := by
  induction bs generalizing acc with
  | nil => simp [beNat]
  | cons b bs ih =>
    simp only [List.foldl_cons, List.length_cons, beNat]
    rw [ih, ih (0 * 256 + b.toNat)]
    ring

theorem beNat_cons (b : Byte) (bs : Bytes) : beNat (b :: bs) = b.toNat * 256 ^ bs.length + beNat bs := by
  have h := beNat_foldl bs (0 * 256 + b.toNat)
  simp only [Nat.zero_mul, Nat.zero_add] at h
  simpa [beNat] using h

theorem two_pow_eight_mul (n : Nat) : 2 ^ (8 * n) = 256 ^ n := by
  rw [Nat.pow_mul]

/-- R33: the bytes of `v` read back as `v` modulo the width. -/
theorem beNat_beBytes (n v : Nat) : beNat (beBytes n v) = v % 2 ^ (8 * n) := by
  induction n with
  | zero => simp [beBytes, beNat, Nat.mod_one]
  | succ n ih =>
    have hm : v % (256 ^ n * 256) = v % 256 ^ n + 256 ^ n * (v / 256 ^ n % 256) := Nat.mod_mul
    rw [beBytes, beNat_cons, ih, beBytes_length, BitVec.toNat_ofNat, two_pow_eight_mul, two_pow_eight_mul,
      Nat.pow_succ (n := 256), hm, Nat.add_comm, Nat.mul_comm (256 ^ n)]

theorem beNat_lt (bs : Bytes) : beNat bs < 2 ^ (8 * bs.length) := by
  induction bs with
  | nil => simp [beNat]
  | cons b bs ih =>
    rw [beNat_cons, two_pow_eight_mul, List.length_cons, Nat.pow_succ]
    rw [two_pow_eight_mul] at ih
    have hb := b.isLt
    nlinarith

theorem encU_ok (n : Nat) (v : Int) (h : 0 ≤ v ∧ v < 2 ^ (8 * n)) : encU n v = .ok (beBytes n v.toNat) := by
  rw [encU, if_pos h]

theorem encU_error (n : Nat) (v : Int) (h : ¬(0 ≤ v ∧ v < 2 ^ (8 * n))) : encU n v = .error .encoding := by
  rw [encU, if_neg h]

theorem quant_ok (max : Nat) (c : NUM) (h : 0 ≤ c ∧ c ≤ 1) :
    quant max c = .ok ⌊(max : NUM) * c + 1 / 2⌋.toNat := by
  rw [quant, if_pos h]; rfl

theorem quant_error (max : Nat) (c : NUM) (h : ¬(0 ≤ c ∧ c ≤ 1)) : quant max c = .error .domain := by
  rw [quant, if_neg h]

/-- R56 with the library's floor. -/
theorem roundHaz_eq (q : NUM) : roundHaz q = if 0 ≤ q then ⌊q + 1 / 2⌋ else -⌊-q + 1 / 2⌋ := rfl

theorem bgField_length (bg : Option Color) (bs : Bytes) (h : bgField bg = .ok bs)
    (hc : ∀ c cs, encColor c = .ok cs → cs.length = 2) : bs.length = 2 := by
  cases bg with
  | none => cases h; rfl
  | some c => exact hc c bs h

theorem runSum_le_succ (f : Nat → Nat) (i : Nat) : Config.runSum f i ≤ Config.runSum f (i + 1) := by
  simp [Config.runSum]

theorem runSum_mono (f : Nat → Nat) {i j : Nat} (h : i ≤ j) : Config.runSum f i ≤ Config.runSum f j := by
  induction h with
  | refl => exact le_rfl
  | step _ ih => exact ih.trans (runSum_le_succ f _)

/-- R117: whatever the two open sequences are, the tables are admissible. -/
theorem fontsOf_admissible (h w : Nat → Nat) : (Config.fontsOf h w).Admissible := by
  refine ⟨fun i j hij => ?_, fun i j hij => ?_, ?_, ?_⟩
  · have hij' : i.val < j.val := hij
    have := runSum_mono h (Nat.le_of_lt hij')
    simp only [Config.fontsOf]
    omega
  · have hij' : i.val < j.val := hij
    have := runSum_mono w (Nat.le_of_lt hij')
    simp only [Config.fontsOf]
    omega
  · simp [Config.fontsOf]
  · simp only [Config.fontsOf, Fin.isValue]
    omega

theorem fonts_admissible : Config.fonts.Admissible := fontsOf_admissible _ _

/-- A running sum of differences is the sequence. -/
theorem runSum_sub (g : Nat → Nat) (n : Nat) (hg : ∀ i < n, g i ≤ g (i + 1)) :
    ∀ i ≤ n, Config.runSum (fun k => if k = 0 then g 0 else g k - g (k - 1)) i = g i := by
  intro i
  induction i with
  | zero => intro _; simp [Config.runSum]
  | succ i ih =>
    intro hi
    have := hg i (by omega)
    simp only [Config.runSum, ih (by omega)]
    simp
    omega

/-- R117: every admissible pair of tables is `fontsOf` of some pair of sequences, so no admissible table is
shut out. -/
theorem fontsOf_onto (F : Fonts) (hF : F.Admissible) : ∃ h w, Config.fontsOf h w = F := by
  obtain ⟨hh, hw, h0, h9⟩ := hF
  have stepOk : ∀ (T : Fin 10 → Nat), (∀ i j : Fin 10, i < j → T i < T j) →
      ∀ i < 9, T (Fin.ofNat 10 i) < T (Fin.ofNat 10 (i + 1)) := by
    intro T hT i hi
    apply hT
    show (Fin.ofNat 10 i).val < (Fin.ofNat 10 (i + 1)).val
    simp only [Fin.ofNat]
    omega
  have above : ∀ (T : Fin 10 → Nat) (m : Nat), m ≤ T 0 → (∀ i j : Fin 10, i < j → T i < T j) →
      ∀ i ≤ 9, i + m ≤ T (Fin.ofNat 10 i) := by
    intro T m hm hT i
    induction i with
    | zero => intro _; simpa using hm
    | succ i ih => intro hi; have := ih (by omega); have := stepOk T hT i (by omega); omega
  have top : ∀ i : Fin 10, F.height i + (9 - i.val) ≤ 64 := by
    intro i
    have key : ∀ k ≤ 9, F.height (Fin.ofNat 10 (9 - k)) + k ≤ 64 := by
      intro k
      induction k with
      | zero => intro _; simpa using h9
      | succ k ih =>
        intro hk
        have h1 := ih (by omega)
        have h2 := stepOk F.height hh (9 - (k + 1)) (by omega)
        have h3 : 9 - (k + 1) + 1 = 9 - k := by omega
        rw [h3] at h2
        omega
    have hk := key (9 - i.val) (by omega)
    have hi : Fin.ofNat 10 (9 - (9 - i.val)) = i := by
      apply Fin.ext
      simp only [Fin.ofNat]
      omega
    rwa [hi] at hk
  let gh : Nat → Nat := fun i => F.height (Fin.ofNat 10 i) - (i + 1)
  let gw : Nat → Nat := fun i => F.width (Fin.ofNat 10 i) - i
  have ofVal : ∀ i : Fin 10, Fin.ofNat 10 i.val = i := by
    intro i
    apply Fin.ext
    simp only [Fin.ofNat]
    omega
  refine ⟨fun k => if k = 0 then gh 0 else gh k - gh (k - 1),
    fun k => if k = 0 then gw 0 else gw k - gw (k - 1), ?_⟩
  have hgh : ∀ i < 9, gh i ≤ gh (i + 1) := by
    intro i hi
    have := stepOk F.height hh i hi
    simp only [gh]
    omega
  have hgw : ∀ i < 9, gw i ≤ gw (i + 1) := by
    intro i hi
    have := stepOk F.width hw i hi
    simp only [gw]
    omega
  cases F with
  | mk H W =>
    simp only [Config.fontsOf, Fonts.mk.injEq]
    constructor
    · funext i
      rw [runSum_sub gh 9 hgh i.val (by omega)]
      have h1 := above H 1 h0 hh i.val (by omega)
      have h2 := top i
      rw [ofVal] at h1
      simp only [gh, ofVal]
      simp only at h2
      omega
    · funext i
      rw [runSum_sub gw 9 hgw i.val (by omega)]
      have h1 := above W 0 (Nat.zero_le _) hw i.val (by omega)
      rw [ofVal] at h1
      simp only [gw, ofVal]
      omega

end Sys2Proof.Machine
end

