-- ==== Sys2Proof/Laws/Encoders.lean ====
section
/-! SUPPORT. What each field encoder answers on a legal operand and on any other, in the terms of the claims. -/

namespace Sys2Proof.Machine

open Sys2Proof

theorem floor_half_toNat_le (max : Nat) (c : NUM) (h : legalChannel c) :
    ⌊(max : NUM) * c + 1 / 2⌋.toNat ≤ max := by
  have hm : (0 : NUM) ≤ max := Nat.cast_nonneg max
  have h1 : (max : NUM) * c ≤ max := by nlinarith [h.2]
  have h2 : ⌊(max : NUM) * c + 1 / 2⌋ < (max : Int) + 1 := by
    rw [Int.floor_lt]
    push_cast
    linarith
  omega

theorem rgb565_eq (r g b : Nat) (hg : g < 2 ^ 6) (hb : b < 2 ^ 5) :
    rgb565 r g b = r * 2 ^ 11 + g * 2 ^ 5 + b := by
  have h1 : (g <<< 5) ||| b = g * 2 ^ 5 + b := by
    rw [← Nat.shiftLeft_add_eq_or_of_lt hb g, Nat.shiftLeft_eq]
  have h2 : (r <<< 11) ||| (g * 2 ^ 5 + b) = r * 2 ^ 11 + (g * 2 ^ 5 + b) := by
    have hlt : g * 2 ^ 5 + b < 2 ^ 11 := by omega
    rw [← Nat.shiftLeft_add_eq_or_of_lt hlt r, Nat.shiftLeft_eq]
  rw [rgb565, Nat.or_assoc, h1, h2]
  omega

theorem colorWord_lt (c : Color) (h : legalColor c) : colorWord c < 2 ^ 16 := by
  have hr := floor_half_toNat_le 31 c.r h.1
  have hg := floor_half_toNat_le 63 c.g h.2.1
  have hb := floor_half_toNat_le 31 c.b h.2.2
  simp only [Nat.cast_ofNat] at hr hg hb
  simp only [colorWord]
  omega

theorem encColor_ok (c : Color) (h : legalColor c) : encColor c = .ok (beBytes 2 (colorWord c)) := by
  have hg := floor_half_toNat_le 63 c.g h.2.1
  have hb := floor_half_toNat_le 31 c.b h.2.2
  have hw := colorWord_lt c h
  have he : rgb565 ⌊(31 : Nat) * c.r + 1 / 2⌋.toNat ⌊(63 : Nat) * c.g + 1 / 2⌋.toNat
      ⌊(31 : Nat) * c.b + 1 / 2⌋.toNat = colorWord c := by
    rw [rgb565_eq _ _ _ (by omega) (by omega)]
    simp only [colorWord, Nat.cast_ofNat]
  simp only [encColor, quant_ok _ _ h.1, quant_ok _ _ h.2.1, quant_ok _ _ h.2.2, bind, Except.bind, he]
  rw [encU_ok 2 _ (by omega)]
  simp

theorem encColor_error (c : Color) (h : ¬legalColor c) : encColor c = .error .domain := by
  unfold encColor
  by_cases hr : legalChannel c.r
  · by_cases hg : legalChannel c.g
    · have hb : ¬legalChannel c.b := fun hb => h ⟨hr, hg, hb⟩
      simp only [quant_ok _ _ hr, quant_ok _ _ hg, quant_error _ _ hb, bind, Except.bind]
    · simp only [quant_ok _ _ hr, quant_error _ _ hg, bind, Except.bind]
  · simp only [quant_error _ _ hr, bind, Except.bind]

theorem bgField_ok (bg : Option Color) (h : legalBackground bg) :
    bgField bg = .ok (beBytes 2 (backgroundWord bg)) := by
  cases bg with
  | none => rfl
  | some c => exact encColor_ok c (h c rfl)

theorem bgField_error (bg : Option Color) (h : ¬legalBackground bg) : bgField bg = .error .domain := by
  cases bg with
  | none => exact absurd (fun c hc => nomatch hc) h
  | some c => exact encColor_error c (fun hc => h (fun d hd => Option.some.inj hd ▸ hc))

theorem encLuminance_ok (l : NUM) (h : legalChannel l) :
    encLuminance l = .ok [BitVec.ofNat 8 ⌊31 * l + 1 / 2⌋.toNat] := by
  have hq := floor_half_toNat_le 31 l h
  simp only [encLuminance, quant_ok _ _ h, bind, Except.bind]
  rw [encU_ok 1 _ (by omega), Int.toNat_natCast]
  simp only [beBytes, Nat.mul_zero, Nat.pow_zero, Nat.div_one, Nat.cast_ofNat]

theorem encLuminance_error (l : NUM) (h : ¬legalChannel l) : encLuminance l = .error .domain := by
  simp only [encLuminance, quant_error _ _ h, bind, Except.bind]

theorem encText_ok (t : Text) (h : asciiText t) : encText t = .ok (t.map (BitVec.ofNat 8)) := by
  induction t with
  | nil => rfl
  | cons ch t ih =>
    have hc : ch ≤ 127 := h ch (by simp)
    have ht : asciiText t := fun x hx => h x (by simp [hx])
    simp only [encText, if_pos hc, ih ht, bind, Except.bind, List.map_cons]

theorem encText_error (t : Text) (h : ¬asciiText t) : encText t = .error .encoding := by
  induction t with
  | nil => exact absurd (fun ch hch => nomatch hch) h
  | cons ch t ih =>
    by_cases hc : ch ≤ 127
    · have ht : ¬asciiText t := fun ht => h (fun x hx => by
        rcases List.mem_cons.mp hx with rfl | hx
        · exact hc
        · exact ht x hx)
      simp only [encText, if_pos hc, ih ht, bind, Except.bind]
    · simp only [encText, if_neg hc]

theorem fontField_ok (font : Int) (h : 0 ≤ font ∧ font ≤ 9) :
    fontField font = .ok (Fin.ofNat 10 font.toNat) := by
  simp only [fontField, dif_pos h, Except.ok.injEq]
  apply Fin.ext
  simp only [Fin.ofNat]
  omega

theorem fontField_error (font : Int) (h : ¬(0 ≤ font ∧ font ≤ 9)) : fontField font = .error .domain := by
  simp only [fontField, dif_neg h]

theorem fillField_ok (m : Int) (h : m = 0 ∨ m = 1 ∨ m = 2) : fillField m = .ok m := by
  simp only [fillField, if_pos h]

theorem fillField_error (m : Int) (h : ¬(m = 0 ∨ m = 1 ∨ m = 2)) : fillField m = .error .domain := by
  simp only [fillField, if_neg h]

theorem stringFlags_eq (fixedWidth drawBg : Bool) (font : Nat) (h : font ≤ 9) :
    stringFlags fixedWidth drawBg font =
      (if fixedWidth = true then 0 else 128) + (if drawBg = true then 64 else 0) + font := by
  revert fixedWidth drawBg
  interval_cases font <;> decide

theorem numberFlags_eq (drawBg signed leftAdjust zeroPad : Bool) (font : Nat) (h : font ≤ 9) :
    numberFlags drawBg signed leftAdjust zeroPad font =
      (if drawBg = true then 128 else 0) + (if signed = true then 64 else 0) +
        (if leftAdjust = true then 0 else 32) + (if zeroPad = true then 16 else 0) + font := by
  revert drawBg signed leftAdjust zeroPad
  interval_cases font <;> decide

theorem pow10_of_nonneg (d : Int) (h : 0 ≤ d) : pow10 d = 10 ^ d.toNat := by
  obtain ⟨n, rfl⟩ := Int.eq_ofNat_of_zero_le h
  simp only [pow10, Int.toNat_natCast]
  push_cast
  ring

theorem encS_ok (v : Int) (h : -2147483648 ≤ v ∧ v ≤ 2147483647) :
    encS 4 v = .ok (beBytes 4 (v % 2 ^ 32).toNat) := by
  have h' : -(2 ^ (8 * 4 - 1)) ≤ v ∧ v < 2 ^ (8 * 4 - 1) := by omega
  rw [encS, if_pos h', twosComplement, encU_ok 4 _ (by omega)]

theorem encS_error (v : Int) (h : ¬(-2147483648 ≤ v ∧ v ≤ 2147483647)) : encS 4 v = .error .encoding := by
  have h' : ¬(-(2 ^ (8 * 4 - 1)) ≤ v ∧ v < 2 ^ (8 * 4 - 1)) := by omega
  rw [encS, if_neg h']

end Sys2Proof.Machine
end

