-- ==== Sys2Proof/Laws/State.lean ====
section
/-! SUPPORT. One lemma per field per update of the state, true by rfl, so that no later proof unfolds a record
update. -/

namespace Sys2Proof.Machine

open Sys2Proof

@[simp] theorem State.load_txBuf (s : State) (frame : Bytes) (reply : Bool) : (s.load frame reply).txBuf = frame := rfl
@[simp] theorem State.load_txIdx (s : State) (frame : Bytes) (reply : Bool) : (s.load frame reply).txIdx = 0 := rfl
@[simp] theorem State.load_txReply (s : State) (frame : Bytes) (reply : Bool) : (s.load frame reply).txReply = reply := rfl
@[simp] theorem State.load_eStat (s : State) (frame : Bytes) (reply : Bool) : (s.load frame reply).eStat = .ok := rfl
@[simp] theorem State.load_rxState (s : State) (frame : Bytes) (reply : Bool) : (s.load frame reply).rxState = s.rxState := rfl
@[simp] theorem State.load_rxPre (s : State) (frame : Bytes) (reply : Bool) : (s.load frame reply).rxPre = s.rxPre := rfl
@[simp] theorem State.load_rxBody (s : State) (frame : Bytes) (reply : Bool) : (s.load frame reply).rxBody = s.rxBody := rfl
@[simp] theorem State.load_rxRes (s : State) (frame : Bytes) (reply : Bool) : (s.load frame reply).rxRes = s.rxRes := rfl
@[simp] theorem State.load_tx (s : State) (frame : Bytes) (reply : Bool) : (s.load frame reply).tx = s.tx := rfl
@[simp] theorem State.load_txTaken (s : State) (frame : Bytes) (reply : Bool) : (s.load frame reply).txTaken = s.txTaken := rfl
@[simp] theorem State.load_rx (s : State) (frame : Bytes) (reply : Bool) : (s.load frame reply).rx = s.rx := rfl
@[simp] theorem State.load_cmd (s : State) (frame : Bytes) (reply : Bool) : (s.load frame reply).cmd = s.cmd := rfl
@[simp] theorem State.load_arms (s : State) (frame : Bytes) (reply : Bool) : (s.load frame reply).arms = s.arms := rfl
@[simp] theorem State.load_queue (s : State) (frame : Bytes) (reply : Bool) : (s.load frame reply).queue = s.queue := rfl
@[simp] theorem State.load_worker (s : State) (frame : Bytes) (reply : Bool) : (s.load frame reply).worker = s.worker := rfl
@[simp] theorem State.load_replies (s : State) (frame : Bytes) (reply : Bool) : (s.load frame reply).replies = s.replies := rfl
@[simp] theorem State.load_driver (s : State) (frame : Bytes) (reply : Bool) : (s.load frame reply).driver = s.driver := rfl
@[simp] theorem State.load_sched (s : State) (frame : Bytes) (reply : Bool) : (s.load frame reply).sched = s.sched := rfl

@[simp] theorem State.raise_txBuf (s : State) (e : EncErr) : (s.raise e).txBuf = s.txBuf := rfl
@[simp] theorem State.raise_txIdx (s : State) (e : EncErr) : (s.raise e).txIdx = s.txIdx := rfl
@[simp] theorem State.raise_txReply (s : State) (e : EncErr) : (s.raise e).txReply = s.txReply := rfl
@[simp] theorem State.raise_eStat (s : State) (e : EncErr) : (s.raise e).eStat = e.eStat := rfl
@[simp] theorem State.raise_rxState (s : State) (e : EncErr) : (s.raise e).rxState = s.rxState := rfl
@[simp] theorem State.raise_rxPre (s : State) (e : EncErr) : (s.raise e).rxPre = s.rxPre := rfl
@[simp] theorem State.raise_rxBody (s : State) (e : EncErr) : (s.raise e).rxBody = s.rxBody := rfl
@[simp] theorem State.raise_rxRes (s : State) (e : EncErr) : (s.raise e).rxRes = s.rxRes := rfl
@[simp] theorem State.raise_tx (s : State) (e : EncErr) : (s.raise e).tx = s.tx := rfl
@[simp] theorem State.raise_txTaken (s : State) (e : EncErr) : (s.raise e).txTaken = s.txTaken := rfl
@[simp] theorem State.raise_rx (s : State) (e : EncErr) : (s.raise e).rx = s.rx := rfl
@[simp] theorem State.raise_cmd (s : State) (e : EncErr) : (s.raise e).cmd = s.cmd := rfl
@[simp] theorem State.raise_arms (s : State) (e : EncErr) : (s.raise e).arms = s.arms := rfl
@[simp] theorem State.raise_queue (s : State) (e : EncErr) : (s.raise e).queue = s.queue := rfl
@[simp] theorem State.raise_worker (s : State) (e : EncErr) : (s.raise e).worker = s.worker := rfl
@[simp] theorem State.raise_replies (s : State) (e : EncErr) : (s.raise e).replies = s.replies := rfl
@[simp] theorem State.raise_driver (s : State) (e : EncErr) : (s.raise e).driver = s.driver := rfl
@[simp] theorem State.raise_sched (s : State) (e : EncErr) : (s.raise e).sched = s.sched := rfl

@[simp] theorem State.txPut_txBuf (s : State) (b : Byte) : (s.txPut b).txBuf = s.txBuf := rfl
@[simp] theorem State.txPut_txIdx (s : State) (b : Byte) : (s.txPut b).txIdx = s.txIdx := rfl
@[simp] theorem State.txPut_txReply (s : State) (b : Byte) : (s.txPut b).txReply = s.txReply := rfl
@[simp] theorem State.txPut_eStat (s : State) (b : Byte) : (s.txPut b).eStat = s.eStat := rfl
@[simp] theorem State.txPut_rxState (s : State) (b : Byte) : (s.txPut b).rxState = s.rxState := rfl
@[simp] theorem State.txPut_rxPre (s : State) (b : Byte) : (s.txPut b).rxPre = s.rxPre := rfl
@[simp] theorem State.txPut_rxBody (s : State) (b : Byte) : (s.txPut b).rxBody = s.rxBody := rfl
@[simp] theorem State.txPut_rxRes (s : State) (b : Byte) : (s.txPut b).rxRes = s.rxRes := rfl
@[simp] theorem State.txPut_tx (s : State) (b : Byte) : (s.txPut b).tx = s.tx ++ [b] := rfl
@[simp] theorem State.txPut_txTaken (s : State) (b : Byte) : (s.txPut b).txTaken = s.txTaken := rfl
@[simp] theorem State.txPut_rx (s : State) (b : Byte) : (s.txPut b).rx = s.rx := rfl
@[simp] theorem State.txPut_cmd (s : State) (b : Byte) : (s.txPut b).cmd = s.cmd := rfl
@[simp] theorem State.txPut_arms (s : State) (b : Byte) : (s.txPut b).arms = s.arms := rfl
@[simp] theorem State.txPut_queue (s : State) (b : Byte) : (s.txPut b).queue = s.queue := rfl
@[simp] theorem State.txPut_worker (s : State) (b : Byte) : (s.txPut b).worker = s.worker := rfl
@[simp] theorem State.txPut_replies (s : State) (b : Byte) : (s.txPut b).replies = s.replies := rfl
@[simp] theorem State.txPut_driver (s : State) (b : Byte) : (s.txPut b).driver = s.driver := rfl
@[simp] theorem State.txPut_sched (s : State) (b : Byte) : (s.txPut b).sched = s.sched := rfl

@[simp] theorem State.resetBlock_txBuf (s : State) : (s.resetBlock).txBuf = [] := rfl
@[simp] theorem State.resetBlock_txIdx (s : State) : (s.resetBlock).txIdx = 0 := rfl
@[simp] theorem State.resetBlock_txReply (s : State) : (s.resetBlock).txReply = false := rfl
@[simp] theorem State.resetBlock_eStat (s : State) : (s.resetBlock).eStat = .ok := rfl
@[simp] theorem State.resetBlock_rxState (s : State) : (s.resetBlock).rxState = .idle := rfl
@[simp] theorem State.resetBlock_rxPre (s : State) : (s.resetBlock).rxPre = [] := rfl
@[simp] theorem State.resetBlock_rxBody (s : State) : (s.resetBlock).rxBody = [] := rfl
@[simp] theorem State.resetBlock_rxRes (s : State) : (s.resetBlock).rxRes = .none := rfl
@[simp] theorem State.resetBlock_tx (s : State) : (s.resetBlock).tx = s.tx := rfl
@[simp] theorem State.resetBlock_txTaken (s : State) : (s.resetBlock).txTaken = s.txTaken := rfl
@[simp] theorem State.resetBlock_rx (s : State) : (s.resetBlock).rx = s.rx := rfl
@[simp] theorem State.resetBlock_cmd (s : State) : (s.resetBlock).cmd = s.cmd := rfl
@[simp] theorem State.resetBlock_arms (s : State) : (s.resetBlock).arms = s.arms := rfl
@[simp] theorem State.resetBlock_queue (s : State) : (s.resetBlock).queue = s.queue := rfl
@[simp] theorem State.resetBlock_worker (s : State) : (s.resetBlock).worker = s.worker := rfl
@[simp] theorem State.resetBlock_replies (s : State) : (s.resetBlock).replies = s.replies := rfl
@[simp] theorem State.resetBlock_driver (s : State) : (s.resetBlock).driver = s.driver := rfl
@[simp] theorem State.resetBlock_sched (s : State) : (s.resetBlock).sched = s.sched := rfl

@[simp] theorem State.lineAppend_txBuf (s : State) (b : Byte) : (s.lineAppend b).txBuf = s.txBuf := rfl
@[simp] theorem State.lineAppend_txIdx (s : State) (b : Byte) : (s.lineAppend b).txIdx = s.txIdx := rfl
@[simp] theorem State.lineAppend_txReply (s : State) (b : Byte) : (s.lineAppend b).txReply = s.txReply := rfl
@[simp] theorem State.lineAppend_eStat (s : State) (b : Byte) : (s.lineAppend b).eStat = s.eStat := rfl
@[simp] theorem State.lineAppend_rxState (s : State) (b : Byte) : (s.lineAppend b).rxState = s.rxState := rfl
@[simp] theorem State.lineAppend_rxPre (s : State) (b : Byte) : (s.lineAppend b).rxPre = s.rxPre := rfl
@[simp] theorem State.lineAppend_rxBody (s : State) (b : Byte) : (s.lineAppend b).rxBody = s.rxBody := rfl
@[simp] theorem State.lineAppend_rxRes (s : State) (b : Byte) : (s.lineAppend b).rxRes = s.rxRes := rfl
@[simp] theorem State.lineAppend_tx (s : State) (b : Byte) : (s.lineAppend b).tx = s.tx := rfl
@[simp] theorem State.lineAppend_txTaken (s : State) (b : Byte) : (s.lineAppend b).txTaken = s.txTaken := rfl
@[simp] theorem State.lineAppend_rx (s : State) (b : Byte) : (s.lineAppend b).rx = s.rx ++ [b] := rfl
@[simp] theorem State.lineAppend_cmd (s : State) (b : Byte) : (s.lineAppend b).cmd = s.cmd := rfl
@[simp] theorem State.lineAppend_arms (s : State) (b : Byte) : (s.lineAppend b).arms = s.arms := rfl
@[simp] theorem State.lineAppend_queue (s : State) (b : Byte) : (s.lineAppend b).queue = s.queue := rfl
@[simp] theorem State.lineAppend_worker (s : State) (b : Byte) : (s.lineAppend b).worker = s.worker := rfl
@[simp] theorem State.lineAppend_replies (s : State) (b : Byte) : (s.lineAppend b).replies = s.replies := rfl
@[simp] theorem State.lineAppend_driver (s : State) (b : Byte) : (s.lineAppend b).driver = s.driver := rfl
@[simp] theorem State.lineAppend_sched (s : State) (b : Byte) : (s.lineAppend b).sched = s.sched := rfl

@[simp] theorem State.present_txBuf (s : State) (p : Presented) : (s.present p).txBuf = s.txBuf := rfl
@[simp] theorem State.present_txIdx (s : State) (p : Presented) : (s.present p).txIdx = s.txIdx := rfl
@[simp] theorem State.present_txReply (s : State) (p : Presented) : (s.present p).txReply = s.txReply := rfl
@[simp] theorem State.present_eStat (s : State) (p : Presented) : (s.present p).eStat = s.eStat := rfl
@[simp] theorem State.present_rxState (s : State) (p : Presented) : (s.present p).rxState = s.rxState := rfl
@[simp] theorem State.present_rxPre (s : State) (p : Presented) : (s.present p).rxPre = s.rxPre := rfl
@[simp] theorem State.present_rxBody (s : State) (p : Presented) : (s.present p).rxBody = s.rxBody := rfl
@[simp] theorem State.present_rxRes (s : State) (p : Presented) : (s.present p).rxRes = s.rxRes := rfl
@[simp] theorem State.present_tx (s : State) (p : Presented) : (s.present p).tx = s.tx := rfl
@[simp] theorem State.present_txTaken (s : State) (p : Presented) : (s.present p).txTaken = s.txTaken := rfl
@[simp] theorem State.present_rx (s : State) (p : Presented) : (s.present p).rx = s.rx := rfl
@[simp] theorem State.present_cmd (s : State) (p : Presented) : (s.present p).cmd = s.cmd ++ [p] := rfl
@[simp] theorem State.present_arms (s : State) (p : Presented) : (s.present p).arms = s.arms := rfl
@[simp] theorem State.present_queue (s : State) (p : Presented) : (s.present p).queue = s.queue := rfl
@[simp] theorem State.present_worker (s : State) (p : Presented) : (s.present p).worker = s.worker := rfl
@[simp] theorem State.present_replies (s : State) (p : Presented) : (s.present p).replies = s.replies := rfl
@[simp] theorem State.present_driver (s : State) (p : Presented) : (s.present p).driver = s.driver := rfl
@[simp] theorem State.present_sched (s : State) (p : Presented) : (s.present p).sched = s.sched := rfl

@[simp] theorem State.requestRead_txBuf (s : State) : (s.requestRead).txBuf = s.txBuf := rfl
@[simp] theorem State.requestRead_txIdx (s : State) : (s.requestRead).txIdx = s.txIdx := rfl
@[simp] theorem State.requestRead_txReply (s : State) : (s.requestRead).txReply = s.txReply := rfl
@[simp] theorem State.requestRead_eStat (s : State) : (s.requestRead).eStat = s.eStat := rfl
@[simp] theorem State.requestRead_rxState (s : State) : (s.requestRead).rxState = s.rxState := rfl
@[simp] theorem State.requestRead_rxPre (s : State) : (s.requestRead).rxPre = s.rxPre := rfl
@[simp] theorem State.requestRead_rxBody (s : State) : (s.requestRead).rxBody = s.rxBody := rfl
@[simp] theorem State.requestRead_rxRes (s : State) : (s.requestRead).rxRes = s.rxRes := rfl
@[simp] theorem State.requestRead_tx (s : State) : (s.requestRead).tx = s.tx := rfl
@[simp] theorem State.requestRead_txTaken (s : State) : (s.requestRead).txTaken = s.txTaken := rfl
@[simp] theorem State.requestRead_rx (s : State) : (s.requestRead).rx = s.rx := rfl
@[simp] theorem State.requestRead_cmd (s : State) : (s.requestRead).cmd = s.cmd := rfl
@[simp] theorem State.requestRead_arms (s : State) : (s.requestRead).arms = s.arms + 1 := rfl
@[simp] theorem State.requestRead_queue (s : State) : (s.requestRead).queue = s.queue := rfl
@[simp] theorem State.requestRead_worker (s : State) : (s.requestRead).worker = s.worker := rfl
@[simp] theorem State.requestRead_replies (s : State) : (s.requestRead).replies = s.replies := rfl
@[simp] theorem State.requestRead_driver (s : State) : (s.requestRead).driver = s.driver := rfl
@[simp] theorem State.requestRead_sched (s : State) : (s.requestRead).sched = s.sched := rfl

@[simp] theorem State.terminate_txBuf (s : State) : (s.terminate).txBuf = s.txBuf := rfl
@[simp] theorem State.terminate_txIdx (s : State) : (s.terminate).txIdx = s.txIdx := rfl
@[simp] theorem State.terminate_txReply (s : State) : (s.terminate).txReply = s.txReply := rfl
@[simp] theorem State.terminate_eStat (s : State) : (s.terminate).eStat = s.eStat := rfl
@[simp] theorem State.terminate_rxState (s : State) : (s.terminate).rxState = s.rxState := rfl
@[simp] theorem State.terminate_rxPre (s : State) : (s.terminate).rxPre = s.rxPre := rfl
@[simp] theorem State.terminate_rxBody (s : State) : (s.terminate).rxBody = s.rxBody := rfl
@[simp] theorem State.terminate_rxRes (s : State) : (s.terminate).rxRes = s.rxRes := rfl
@[simp] theorem State.terminate_tx (s : State) : (s.terminate).tx = s.tx := rfl
@[simp] theorem State.terminate_txTaken (s : State) : (s.terminate).txTaken = s.txTaken := rfl
@[simp] theorem State.terminate_rx (s : State) : (s.terminate).rx = s.rx := rfl
@[simp] theorem State.terminate_cmd (s : State) : (s.terminate).cmd = s.cmd := rfl
@[simp] theorem State.terminate_arms (s : State) : (s.terminate).arms = s.arms := rfl
@[simp] theorem State.terminate_queue (s : State) : (s.terminate).queue = s.queue.terminate := rfl
@[simp] theorem State.terminate_worker (s : State) : (s.terminate).worker = s.worker := rfl
@[simp] theorem State.terminate_replies (s : State) : (s.terminate).replies = s.replies := rfl
@[simp] theorem State.terminate_driver (s : State) : (s.terminate).driver = s.driver := rfl
@[simp] theorem State.terminate_sched (s : State) : (s.terminate).sched = s.sched := rfl

end Sys2Proof.Machine
end

