-- ==== Sys2Proof/Laws/Ops.lean ====
section
/-! SUPPORT. For each shared operation, once, everything it can do. -/

namespace Sys2Proof.Machine

open Sys2Proof

theorem State.txBusy_iff (s : State) : s.txBusy = true ↔ s.txIdx < s.txBuf.length := by
  simp [State.txBusy]

theorem State.txBusy_eq_false_iff (s : State) : s.txBusy = false ↔ s.txBuf.length ≤ s.txIdx := by
  simp [State.txBusy]

theorem State.issue_busy (s : State) (r : Except EncErr Bytes) (reply : Bool) (h : s.txBusy = true) :
    s.issue r reply = s := by
  simp [State.issue, h]

theorem State.issue_ok (s : State) (frame : Bytes) (reply : Bool) (h : s.txBusy = false) :
    s.issue (.ok frame) reply = s.load frame reply := by
  simp [State.issue, h]

theorem State.issue_error (s : State) (e : EncErr) (reply : Bool) (h : s.txBusy = false) :
    s.issue (.error e) reply = s.raise e := by
  simp [State.issue, h]

/-- R20: all that `issue` can do. -/
theorem State.issue_cases (s : State) (r : Except EncErr Bytes) (reply : Bool) :
    (s.txBusy = true ∧ s.issue r reply = s) ∨
    (s.txBusy = false ∧ ∃ frame, r = .ok frame ∧ s.issue r reply = s.load frame reply) ∨
    (s.txBusy = false ∧ ∃ e, r = .error e ∧ s.issue r reply = s.raise e) := by
  cases hb : s.txBusy with
  | true => exact .inl ⟨rfl, s.issue_busy r reply hb⟩
  | false =>
    cases r with
    | ok frame => exact .inr (.inl ⟨rfl, frame, rfl, s.issue_ok frame reply hb⟩)
    | error e => exact .inr (.inr ⟨rfl, e, rfl, s.issue_error e reply hb⟩)

/-- R21: all that `emit` can do. -/
theorem State.emit_cases (s : State) :
    (s.txBusy = false ∧ s.emit = s) ∨
    (s.txBusy = true ∧ ∃ b, s.txBuf[s.txIdx]? = some b ∧
      s.emit = { s with tx := s.tx ++ [b], txIdx := s.txIdx + 1 }) := by
  cases h : s.txBuf[s.txIdx]? with
  | none =>
    have hle := List.getElem?_eq_none_iff.mp h
    exact .inl ⟨(s.txBusy_eq_false_iff).mpr hle, by simp [State.emit, h]⟩
  | some b =>
    obtain ⟨hlt, -⟩ := List.getElem?_eq_some_iff.mp h
    exact .inr ⟨(s.txBusy_iff).mpr hlt, b, rfl, by simp [State.emit, h, State.txPut]⟩

/-- R125: all that `rx_arm` can do. -/
theorem State.rxArm_cases (s : State) :
    (s.rxState = .idle ∧ s.rxArm = { s with rxPre := [], rxBody := [], rxRes := .none, rxState := .hunt }) ∨
    (s.rxState ≠ .idle ∧ s.rxArm = s) := by
  by_cases h : s.rxState = .idle
  · exact .inl ⟨h, by simp [State.rxArm, h]⟩
  · exact .inr ⟨h, by simp [State.rxArm, h]⟩

/-- R148: the worker owns the port exactly while it is running or draining. -/
theorem State.portOwned_iff (s : State) :
    s.portOwned = true ↔ s.worker.phase = .running ∨ s.worker.phase = .draining := by
  simp [State.portOwned]

/-- Whether the port is owned depends on the worker alone. -/
theorem State.portOwned_congr {s t : State} (h : t.worker = s.worker) : t.portOwned = s.portOwned := by
  simp [State.portOwned, h]

/-- Whether a frame is in flight depends on the buffer and the index alone. -/
theorem State.txBusy_congr {s t : State} (hb : t.txBuf = s.txBuf) (hi : t.txIdx = s.txIdx) : t.txBusy = s.txBusy := by
  simp [State.txBusy, hb, hi]

theorem State.quiescent_iff (s : State) : s.quiescent = true ↔ s.txBusy = false ∧ s.rxState = .idle := by
  simp [State.quiescent]

/-- All that the arming of a waiting request can do. -/
theorem State.serveRead_cases (s : State) :
    (s.portOwned = false ∧ s.rxState = .idle ∧ 0 < s.arms ∧
      s.serveRead = { s with
        arms := s.arms - 1, rxPre := [], rxBody := [], rxRes := .none, rxState := .hunt }) ∨
    (¬(s.portOwned = false ∧ s.rxState = .idle ∧ 0 < s.arms) ∧ s.serveRead = s) := by
  by_cases h : s.portOwned = false ∧ s.rxState = .idle ∧ 0 < s.arms
  · exact .inl ⟨h.1, h.2.1, h.2.2, by simp [State.serveRead, State.rxArm, h]⟩
  · exact .inr ⟨h, by rw [State.serveRead, if_neg h]⟩

/-- R20, R148: all that an `issue` move can do. -/
theorem State.issueNext_cases (s : State) :
    ((s.cmd = [] ∨ s.portOwned = true) ∧ s.issueNext = .next s) ∨
    (s.portOwned = false ∧ ∃ p rest, s.cmd = p :: rest ∧
      ((∃ why, p.command = .error why ∧ s.issueNext = .refused (.notACommand why)) ∨
       (∃ i, p.command = .ok i ∧ s.txBusy = true ∧ s.issueNext = exec i s) ∨
       (∃ i, p.command = .ok i ∧ s.txBusy = false ∧ s.issueNext = exec i { s with cmd := rest }))) := by
  cases hc : s.cmd with
  | nil => exact .inl ⟨.inl rfl, by simp [State.issueNext, hc]⟩
  | cons p rest =>
    cases ho : s.portOwned with
    | true => exact .inl ⟨.inr rfl, by simp [State.issueNext, hc, ho]⟩
    | false =>
      refine .inr ⟨rfl, p, rest, rfl, ?_⟩
      cases hp : p.command with
      | error why => exact .inl ⟨why, rfl, by simp [State.issueNext, hc, ho, hp]⟩
      | ok i =>
        cases hb : s.txBusy with
        | true => exact .inr (.inl ⟨i, rfl, rfl, by simp [State.issueNext, hc, ho, hp, hb]⟩)
        | false => exact .inr (.inr ⟨i, rfl, rfl, by simp [State.issueNext, hc, ho, hp, hb]⟩)

/-- R126 to R128: all that `rx_byte` can do. -/
theorem State.rxByte_cases (s : State) :
    (s.rxState = .hunt ∧ ∃ b rest, s.rx = b :: rest ∧
      ((b = Config.prefixByte ∧ s.rxByte = { s with rx := rest, rxState := .body }) ∨
       (b ≠ Config.prefixByte ∧ s.rxByte = { s with rx := rest, rxPre := s.rxPre ++ [b] }))) ∨
    (s.rxState = .body ∧ ∃ b rest, s.rx = b :: rest ∧
      ((endsInSuffix (s.rxBody ++ [b]) = true ∧ s.rxByte = { s with
          rx := rest
          rxRes := .frame s.rxPre ((s.rxBody ++ [b]).take ((s.rxBody ++ [b]).length - 4))
          rxBody := [], rxPre := [], rxState := .idle }) ∨
       (endsInSuffix (s.rxBody ++ [b]) = false ∧ s.rxByte = { s with rx := rest, rxBody := s.rxBody ++ [b] }))) ∨
    ((s.rxState = .idle ∨ s.rx = []) ∧ s.rxByte = s) := by
  cases hx : s.rxState with
  | idle => exact .inr (.inr ⟨.inl rfl, by simp [State.rxByte, hx]⟩)
  | hunt =>
    cases hr : s.rx with
    | nil => exact .inr (.inr ⟨.inr rfl, by simp [State.rxByte, hx, hr]⟩)
    | cons b rest =>
      refine .inl ⟨rfl, b, rest, rfl, ?_⟩
      by_cases hb : b = Config.prefixByte
      · exact .inl ⟨hb, by simp [State.rxByte, State.huntByte, hx, hr, hb]⟩
      · exact .inr ⟨hb, by simp [State.rxByte, State.huntByte, hx, hr, hb]⟩
  | body =>
    cases hr : s.rx with
    | nil => exact .inr (.inr ⟨.inr rfl, by simp [State.rxByte, hx, hr]⟩)
    | cons b rest =>
      refine .inr (.inl ⟨rfl, b, rest, rfl, ?_⟩)
      cases he : endsInSuffix (s.rxBody ++ [b]) with
      | true => exact .inl ⟨rfl, by simp [State.rxByte, State.bodyByte, hx, hr, he]⟩
      | false => exact .inr ⟨rfl, by simp [State.rxByte, State.bodyByte, hx, hr, he]⟩

/-- R129: all that `rx_timeout` can do. -/
theorem State.rxTimeout_cases (s : State) :
    (s.rxState ≠ .idle ∧
      s.rxTimeout = { s with rxRes := .noResponse, rxPre := [], rxBody := [], rxState := .idle }) ∨
    (s.rxState = .idle ∧ s.rxTimeout = s) := by
  cases h : s.rxState with
  | idle => exact .inr ⟨rfl, by simp [State.rxTimeout, h]⟩
  | hunt => exact .inl ⟨by decide, by simp [State.rxTimeout, h]⟩
  | body => exact .inl ⟨by decide, by simp [State.rxTimeout, h]⟩

/-- All that the line's removal of a byte can do. -/
theorem State.lineTake_cases (s : State) :
    (s.tx = [] ∧ s.lineTake = s) ∨
    (∃ b rest, s.tx = b :: rest ∧ s.lineTake = { s with tx := rest, txTaken := s.txTaken ++ [b] }) := by
  cases h : s.tx with
  | nil => exact .inl ⟨rfl, by simp [State.lineTake, h]⟩
  | cons b rest => exact .inr ⟨b, rest, rfl, by simp [State.lineTake, h]⟩

/-- Where a driver operation stands when it returns (R150, R153, R154). -/
theorem State.driverOp_cases (s : State) (c : Instr) :
    (s.driver.scope ≠ .inside ∧ s.driverOp c = s) ∨
    (s.driver.scope = .inside ∧ s.driver.portFault = true ∧
      s.driverOp c = { s with driver := { s.driver with opResult := .portError } }) ∨
    (s.driver.scope = .inside ∧ s.driver.portFault = false ∧ ∃ e, encodeCommand c = .error e ∧
      s.driverOp c = { s with driver := { s.driver with opResult := e.eStat.errorClass } }) ∨
    (s.driver.scope = .inside ∧ s.driver.portFault = false ∧ ∃ frame, encodeCommand c = .ok frame ∧
      s.driverOp c = { s with
        queue := s.queue.putTransmit frame
        driver := { s.driver with
          opResult := .ok
          owedReads := s.driver.owedReads + (if replyExpected c = true then 1 else 0) } }) := by
  by_cases hs : s.driver.scope = .inside
  · refine .inr ?_
    cases hp : s.driver.portFault with
    | true => exact .inl ⟨hs, rfl, by simp [State.driverOp, hs, hp]⟩
    | false =>
      cases he : encodeCommand c with
      | error e => exact .inr (.inl ⟨hs, rfl, e, rfl, by simp [State.driverOp, hs, hp, he]⟩)
      | ok frame => exact .inr (.inr ⟨hs, rfl, frame, rfl, by simp [State.driverOp, hs, hp, he]⟩)
  · exact .inl ⟨hs, by simp [State.driverOp, hs]⟩

/-- R155: all that a caller's taking of a message can do. -/
theorem State.takeReply_cases (s : State) :
    (s.replies = [] ∧ s.takeReply = s) ∨
    (∃ r rest, s.replies = r :: rest ∧
      s.takeReply = { s with replies := rest, driver := { s.driver with replyTaken := some r } }) := by
  cases h : s.replies with
  | nil => exact .inl ⟨rfl, by simp [State.takeReply, h]⟩
  | cons r rest => exact .inr ⟨r, rest, rfl, by simp [State.takeReply, h]⟩

/-- R149: all that starting the worker can do. -/
theorem State.workerStart_cases (s : State) :
    (s.worker.phase = .idle ∧ s.workerStart = { s with worker := { s.worker with phase := .running } }) ∨
    (s.worker.phase ≠ .idle ∧ s.workerStart = s) := by
  by_cases h : s.worker.phase = .idle
  · exact .inl ⟨h, by simp [State.workerStart, h]⟩
  · exact .inr ⟨h, by simp [State.workerStart, h]⟩

/-- R153: all that entering the scope can do. -/
theorem State.scopeEnter_cases (s : State) :
    (s.driver.scope = .notEntered ∧
      s.scopeEnter = { s.workerStart with driver := { s.driver with scope := .inside } }) ∨
    (s.driver.scope ≠ .notEntered ∧ s.scopeEnter = s) := by
  by_cases h : s.driver.scope = .notEntered
  · exact .inl ⟨h, by simp [State.scopeEnter, h]⟩
  · exact .inr ⟨h, by simp [State.scopeEnter, h]⟩

/-- R153: all that beginning to leave the scope can do. -/
theorem State.scopeExit_cases (s : State) :
    (s.driver.scope = .inside ∧
      s.scopeExit = { s.terminate with driver := { s.driver with scope := .leaving } }) ∨
    (s.driver.scope ≠ .inside ∧ s.scopeExit = s) := by
  by_cases h : s.driver.scope = .inside
  · exact .inl ⟨h, by simp [State.scopeExit, h]⟩
  · exact .inr ⟨h, by simp [State.scopeExit, h]⟩

/-- R153, R154: all that the return of the scope's exit can do. -/
theorem State.scopeJoin_cases (s : State) :
    (s.driver.scope = .leaving ∧ s.worker.phase = .stopped ∧ s.scopeJoin = { s with
      driver := { s.driver with
        scope := .left, exitResult := some (if s.driver.portFault = true then .portError else .ok) } }) ∨
    (¬(s.driver.scope = .leaving ∧ s.worker.phase = .stopped) ∧ s.scopeJoin = s) := by
  by_cases h : s.driver.scope = .leaving ∧ s.worker.phase = .stopped
  · exact .inl ⟨h.1, h.2, by rw [State.scopeJoin, if_pos h]⟩
  · exact .inr ⟨h, by rw [State.scopeJoin, if_neg h]⟩

/-- R146, R153: all that a call of `terminate()` can do. -/
theorem State.terminateCall_cases (s : State) :
    (s.driver.scope = .inside ∧ s.terminateCall = s.terminate) ∨
    (s.driver.scope ≠ .inside ∧ s.terminateCall = s) := by
  by_cases h : s.driver.scope = .inside
  · exact .inl ⟨h, by simp [State.terminateCall, h]⟩
  · exact .inr ⟨h, by simp [State.terminateCall, h]⟩

/-- R154: all that a failure of the transport can do. -/
theorem State.portError_cases (s : State) :
    (s.worker.phase = .running ∧ s.portError = { s with
      worker := { phase := .draining, serving := .free }, driver := { s.driver with portFault := true } }) ∨
    (s.worker.phase ≠ .running ∧ s.portError = s) := by
  by_cases h : s.worker.phase = .running
  · exact .inl ⟨h, by simp [State.portError, h]⟩
  · exact .inr ⟨h, by simp [State.portError, h]⟩

/-- R148: all that one step of the running worker's loop can do. -/
theorem State.workerLoop_cases (s : State) :
    (s.worker.serving = .free ∧ ∃ item q, s.queue.take = some (item, q) ∧ s.workerLoop = s.workerTook item q) ∨
    (∃ frame, s.worker.serving = .toWrite frame ∧ s.quiescent = true ∧ s.workerLoop =
      { s.load frame (frameExpectsReply frame) with worker := { s.worker with serving := .writing } }) ∨
    (s.worker.serving = .writing ∧ s.txBusy = false ∧
      s.workerLoop = { s with worker := { s.worker with serving := .free } }) ∨
    (s.worker.serving = .toRead ∧ s.quiescent = true ∧
      s.workerLoop = { s.rxArm with worker := { s.worker with serving := .reading } }) ∨
    (s.worker.serving = .reading ∧ s.rxState = .idle ∧ s.workerLoop =
      { s with replies := s.replies ++ s.rxRes.replies, worker := { s.worker with serving := .free } }) ∨
    s.workerLoop = s := by
  cases hw : s.worker.serving with
  | free =>
    cases hq : s.queue.take with
    | none => simp [State.workerLoop, hw, hq]
    | some p => exact .inl ⟨rfl, p.1, p.2, rfl, by simp [State.workerLoop, hw, hq]⟩
  | toWrite frame => cases hb : s.quiescent <;> simp [State.workerLoop, hw, hb]
  | writing => cases hb : s.txBusy <;> simp [State.workerLoop, hw, hb]
  | toRead => cases hb : s.quiescent <;> simp [State.workerLoop, hw, hb]
  | reading => by_cases hi : s.rxState = .idle <;> simp [State.workerLoop, hw, hi]

/-- R143: all that `take()` can do. -/
theorem Queue.take_cases (q : Queue) :
    (q.term = true ∧ q.take = some (.terminate, q)) ∨
    (q.term = false ∧ ∃ b rest, q.tx = b :: rest ∧ q.take = some (.transmit b, { q with tx := rest })) ∨
    (q.term = false ∧ q.tx = [] ∧ 0 < q.rd ∧ q.take = some (.readRequest, { q with rd := q.rd - 1 })) ∨
    (q.term = false ∧ q.tx = [] ∧ q.rd = 0 ∧ q.take = none) := by
  cases ht : q.term with
  | true => exact .inl ⟨rfl, by simp [Queue.take, ht]⟩
  | false =>
    cases hx : q.tx with
    | cons b rest => exact .inr (.inl ⟨rfl, b, rest, rfl, by simp [Queue.take, ht, hx]⟩)
    | nil =>
      by_cases hr : 0 < q.rd
      · exact .inr (.inr (.inl ⟨rfl, rfl, hr, by simp [Queue.take, ht, hx, hr]⟩))
      · exact .inr (.inr (.inr ⟨rfl, rfl, by omega, by simp [Queue.take, ht, hx, hr]⟩))

/-- R47: every arm of `exec` is the `issue` step on `encode` and `reply_expected` of its command. -/
theorem exec_eq_issue (i : Instr) (s : State) : exec i s = .next (s.issue (encodeCommand i) (replyExpected i)) := by
  cases i <;> rfl

end Sys2Proof.Machine
end

