-- ==== Sys2Proof/Laws/PerInstr.lean ====
section
/-! SUPPORT. Families of facts with one lemma per constructor of Instr. -/

namespace Sys2Proof.Laws

open Sys2Proof Sys2Proof.Machine

/-- R45, R61: the command's frame opens with the prefix and the command byte of the opcode map. -/
def FrameOpens.Statement (i : Instr) : Prop :=
  ∀ F : Fonts, (encodeWith F i).take 2 = [Config.prefixByte, commandByte i]

theorem FrameOpens.handshake :
    FrameOpens.Statement (.handshake) := fun _ => rfl

theorem FrameOpens.setRotation (angle : Int) :
    FrameOpens.Statement (.setRotation angle) := fun _ => rfl

theorem FrameOpens.setBacklight (level : NUM) :
    FrameOpens.Statement (.setBacklight level) := fun _ => rfl

theorem FrameOpens.updateLcd :
    FrameOpens.Statement (.updateLcd) := fun _ => rfl

theorem FrameOpens.clearFrame (color : Color) :
    FrameOpens.Statement (.clearFrame color) := fun _ => rfl

theorem FrameOpens.drawLine (x0 y0 x1 y1 : Int) (color : Color) :
    FrameOpens.Statement (.drawLine x0 y0 x1 y1 color) := fun _ => rfl

theorem FrameOpens.drawRect (x0 y0 x1 y1 : Int) (color : Color) (fillMode : Int) :
    FrameOpens.Statement (.drawRect x0 y0 x1 y1 color fillMode) := fun _ => rfl

theorem FrameOpens.drawString (x y : Int) (text : Text) (font : Int) (fg : Color) (bg : Option Color) (fixedWidth : Bool) :
    FrameOpens.Statement (.drawString x y text font fg bg fixedWidth) := fun _ => rfl

theorem FrameOpens.drawNumber (x y : Int) (value : NUM) (font : Int) (fg : Color) (bg : Option Color) (signed : Bool)
    (digits decimals : Int) (leftAdjust zeroPad : Bool) :
    FrameOpens.Statement (.drawNumber x y value font fg bg signed digits decimals leftAdjust zeroPad) := fun _ => rfl

theorem FrameOpens.drawQr (x y : Int) (text : Text) (pixelSize : Int) :
    FrameOpens.Statement (.drawQr x y text pixelSize) := fun _ => rfl

theorem FrameOpens.loadJpeg (id : Int) :
    FrameOpens.Statement (.loadJpeg id) := fun _ => rfl

end Sys2Proof.Laws
end

