-- ==== Sys2Proof/Tests/Slice0.lean ====
section
/-! SUPPORT. Tests on fixed values. Every expected result is from `95_test_vectors.md` (the vector's id is in the
comment) or written out by hand from the layouts of R60. The witness theorems show that the hypotheses of the
statements are met, clause by clause, at boundary values. -/

namespace Sys2Proof.Tests

-- One theorem at a time: each `decide +kernel` elaborated beside the others takes a thread of its own.
set_option Elab.async false

open Sys2Proof Sys2Proof.Machine

/-- The example font tables of R118, for vectors that need numbers. -/
def r118 : Fonts where
  height := ![12, 16, 20, 24, 28, 32, 40, 48, 56, 64]
  width := ![6, 8, 10, 12, 14, 16, 20, 24, 28, 32]

def nextOf : Host.Outcome State Fault Refusal → Option State
  | .next s => some s
  | .fault _ => none
  | .refused _ => none

/-- The buffer and the status after a command run from reset. -/
def sent (c : Instr) : Option (Bytes × EStat) := (nextOf (exec c State.reset)).map (fun s => (s.txBuf, s.eStat))

def white : Color := ⟨1, 1, 1⟩
def black : Color := ⟨0, 0, 0⟩

/-- ENC busy with the frame of update_lcd, three bytes emitted (P5). -/
def busy : State := { State.reset with
  txBuf := [0xAA, 0x3D, 0xCC, 0x33, 0xC3, 0x3C], txIdx := 3, tx := [0xAA, 0x3D, 0xCC] }

/-- DEC armed, no prefix taken. -/
def hunting (rx : Bytes) : State := { State.reset with rxState := .hunt, rx := rx }

/-- DEC in BODY. -/
def inBody (body rx : Bytes) : State := { State.reset with rxState := .body, rxBody := body, rx := rx }

/-! Decoding: frames written out from R60. -/

theorem test_decode_handshake : decode [0xAA, 0x00, 0xCC, 0x33, 0xC3, 0x3C] = .ok .handshake := by rfl
theorem test_decode_setRotation :
    decode [0xAA, 0x34, 0x5A, 0xA5, 0x01, 0xCC, 0x33, 0xC3, 0x3C] = .ok (.setRotation 90) := by rfl
theorem test_decode_setBacklight :
    (decode [0xAA, 0x30, 0x1F, 0xCC, 0x33, 0xC3, 0x3C]).toOption = some (.setBacklight 1) := by decide +kernel
theorem test_decode_updateLcd : decode [0xAA, 0x3D, 0xCC, 0x33, 0xC3, 0x3C] = .ok .updateLcd := by rfl
theorem test_decode_clearFrame :
    (decode [0xAA, 0x01, 0xF8, 0x00, 0xCC, 0x33, 0xC3, 0x3C]).toOption = some (.clearFrame ⟨1, 0, 0⟩) := by
  decide +kernel
theorem test_decode_drawLine :
    (decode [0xAA, 0x03, 0xFF, 0xFF, 0x00, 0x0A, 0x00, 0x14, 0x01, 0x2C, 0x01, 0x90, 0xCC, 0x33, 0xC3, 0x3C]).toOption
      = some (.drawLine 10 20 300 400 white) := by decide +kernel
theorem test_decode_drawRect :
    (decode [0xAA, 0x05, 0x02, 0xFF, 0xE0, 0x00, 0x10, 0x00, 0x20, 0x00, 0x30, 0x00, 0x40, 0xCC, 0x33, 0xC3,
      0x3C]).toOption = some (.drawRect 16 32 48 64 ⟨1, 1, 0⟩ 2) := by decide +kernel
theorem test_decode_drawString :
    (decode [0xAA, 0x11, 0x49, 0xF8, 0x00, 0x00, 0x00, 0x01, 0x02, 0x03, 0x04, 0x41, 0x7E, 0x7F, 0x00, 0xCC, 0x33,
      0xC3, 0x3C]).toOption
      = some (.drawString 258 772 [0x41, 0x7E, 0x7F, 0x00] 9 ⟨1, 0, 0⟩ (some black) true) := by decide +kernel
theorem test_decode_drawNumber :
    (decodeWith r118 [0xAA, 0x14, 0x62, 0xFF, 0xFF, 0x00, 0x00, 0x03, 0x02, 0x00, 0x6E, 0x00, 0x32, 0x00, 0x01, 0x68,
      0xEF, 0xCC, 0x33, 0xC3, 0x3C]).toOption
      = some (.drawNumber 100 50 (92399 / 100) 2 white none true 3 2 false false) := by decide +kernel
theorem test_decode_drawQr :
    decode [0xAA, 0x21, 0x00, 0x28, 0x00, 0x3C, 0x04, 0x68, 0x74, 0xCC, 0x33, 0xC3, 0x3C]
      = .ok (.drawQr 40 60 [0x68, 0x74] 4) := by rfl
theorem test_decode_loadJpeg : decode [0xAA, 0x22, 0x00, 0x07, 0xCC, 0x33, 0xC3, 0x3C] = .ok (.loadJpeg 7) := by rfl

theorem test_decode_rejects :
    decode [0xAB, 0x00, 0xCC, 0x33, 0xC3, 0x3C] = .error .noPrefix ∧
    decode [0xAA, 0x00, 0xCC, 0x33, 0xC3, 0x3D] = .error .noSuffix ∧
    decode [0xAA, 0xCC, 0x33, 0xC3, 0x3C] = .error .emptyPayload ∧
    decode [0xAA, 0x5A, 0xCC, 0x33, 0xC3, 0x3C] = .error .unknownCommand ∧
    decode [0xAA, 0x34, 0x5A, 0xA6, 0x00, 0xCC, 0x33, 0xC3, 0x3C] = .error .badHeader ∧
    decode [0xAA, 0x3D, 0x00, 0xCC, 0x33, 0xC3, 0x3C] = .error .badLength ∧
    decode [0xAA, 0x34, 0x5A, 0xA5, 0x04, 0xCC, 0x33, 0xC3, 0x3C] = .error .badRotation ∧
    decode [0xAA, 0x30, 0x20, 0xCC, 0x33, 0xC3, 0x3C] = .error .badLuminance := by
  refine ⟨rfl, rfl, rfl, rfl, rfl, rfl, rfl, rfl⟩
theorem test_decode_rejects_fields :
    decode [0xAA, 0x05, 3, 0, 0, 0, 0, 0, 0, 0, 0, 0, 0, 0xCC, 0x33, 0xC3, 0x3C] = .error .badFillMode ∧
    decode [0xAA, 0x11, 0x0A, 0, 0, 0, 0, 0, 0, 0, 0, 0xCC, 0x33, 0xC3, 0x3C] = .error .badFont ∧
    decode [0xAA, 0x11, 0x10, 0, 0, 0, 0, 0, 0, 0, 0, 0xCC, 0x33, 0xC3, 0x3C] = .error .reservedFlags ∧
    decode [0xAA, 0x11, 0x00, 0, 0, 0, 1, 0, 0, 0, 0, 0xCC, 0x33, 0xC3, 0x3C] = .error .strayBackground ∧
    decode [0xAA, 0x11, 0x00, 0, 0, 0, 0, 0, 0, 0, 0, 0x80, 0xCC, 0x33, 0xC3, 0x3C] = .error .badText := by
  refine ⟨rfl, rfl, rfl, rfl, rfl⟩

/-- The leading bytes of each row of the opcode table, zero operands. -/
theorem test_table_words :
    decodeTableWord 16 0xAA00 = some .handshake ∧ decodeTableWord 32 0xAA345AA5 = some (.setRotation 0) ∧
    decodeTableWord 16 0xAA30 = some (.setBacklight 0) ∧ decodeTableWord 16 0xAA3D = some .updateLcd ∧
    decodeTableWord 16 0xAA01 = some (.clearFrame black) ∧
    decodeTableWord 16 0xAA03 = some (.drawLine 0 0 0 0 black) ∧
    decodeTableWord 16 0xAA05 = some (.drawRect 0 0 0 0 black 0) ∧
    decodeTableWord 24 0xAA1100 = some (.drawString 0 0 [] 0 black none true) ∧
    decodeTableWord 16 0xAA14 = some (.drawNumber 0 0 0 0 black none false 0 0 true false) ∧
    decodeTableWord 16 0xAA21 = some (.drawQr 0 0 [] 0) ∧ decodeTableWord 24 0xAA2200 = some (.loadJpeg 0) := by
  decide +kernel

theorem test_fetched_word_runs :
    (nextOf (step (State.reset.withFetchWord 24 0xAA2200))).map State.txBuf
      = some [0xAA, 0x22, 0x00, 0x00, 0xCC, 0x33, 0xC3, 0x3C] := by decide +kernel

/-! Well-formedness: an ill-formed term for each check. -/

theorem test_illFormed_angle : wellFormedWith r118 (.setRotation 45) = false := by decide +kernel
theorem test_illFormed_level :
    wellFormedWith r118 (.setBacklight (1 / 2)) = false ∧ wellFormedWith r118 (.setBacklight 2) = false := by
  decide +kernel
theorem test_illFormed_color : wellFormedWith r118 (.clearFrame ⟨0, 1 / 31, 0⟩) = false := by decide +kernel
theorem test_illFormed_coordinate : wellFormedWith r118 (.drawLine 0 65536 0 0 black) = false := by decide +kernel
theorem test_illFormed_fillMode : wellFormedWith r118 (.drawRect 0 0 0 0 black 3) = false := by decide +kernel
theorem test_illFormed_font : wellFormedWith r118 (.drawString 0 0 [] 10 black none true) = false := by decide +kernel
theorem test_illFormed_background :
    wellFormedWith r118 (.drawString 0 0 [] 0 black (some ⟨0, 0, 2⟩) true) = false := by decide +kernel
theorem test_illFormed_text : wellFormedWith r118 (.drawQr 0 0 [0x80] 0) = false := by decide +kernel
theorem test_illFormed_wireX :
    wellFormedWith r118 (.drawNumber 65504 0 5 9 black none true 1 0 false false) = false := by decide +kernel
theorem test_illFormed_value :
    wellFormedWith r118 (.drawNumber 0 0 (1 / 3) 0 black none true 1 0 true false) = false ∧
    wellFormedWith r118 (.drawNumber 0 0 (-1) 0 black none false 1 0 true false) = false := by decide +kernel
theorem test_illFormed_byte : wellFormedWith r118 (.loadJpeg 256) = false := by decide +kernel

/-! Encoders: E4 to E31, Q3, Q13 to Q15, the round_haz list. -/

theorem test_scalar_encoders :
    encS 1 (-128) = .ok [0x80] ∧ encS 1 128 = .error .encoding ∧ encU 2 300 = .ok [0x01, 0x2C] ∧
    encS 4 (-4834200) = .ok [0xFF, 0xB6, 0x3C, 0x68] ∧
    encU 8 0x0102030405060708 = .ok [1, 2, 3, 4, 5, 6, 7, 8] ∧ encU 8 18446744073709551616 = .error .encoding := by
  refine ⟨rfl, rfl, rfl, rfl, rfl, rfl⟩
theorem test_quant :
    (quant 31 (1 / 62)).toOption = some 1 ∧ (quant 31 (5 / 62)).toOption = some 3 ∧
    (quant 31 (1 / 63)).toOption = some 0 ∧ (quant 31 (-1 / 1000)).toOption = none ∧
    (quant 63 (1001 / 1000)).toOption = none := by decide +kernel
theorem test_roundHaz :
    roundHaz (5 / 2) = 3 ∧ roundHaz (-5 / 2) = -3 ∧ roundHaz (4999 / 10000) = 0 ∧ roundHaz (-4 / 10) = 0 ∧
    roundHaz (9239898 / 100) = 92399 := by decide +kernel
/-- CW9, CW10. -/
theorem test_encColor :
    (encColor ⟨1 / 62, 1 / 126, 1 / 62⟩).toOption = some [0x08, 0x21] ∧
    (encColor ⟨1 / 4, 3 / 4, 1 / 10⟩).toOption = some [0x45, 0xE3] := by decide +kernel

/-! Commands, from reset. -/

/-- A1 -/
theorem test_handshake : sent .handshake = some ([0xAA, 0x00, 0xCC, 0x33, 0xC3, 0x3C], .ok) := by decide
/-- A5, A7 -/
theorem test_setRotation :
    sent (.setRotation 270) = some ([0xAA, 0x34, 0x5A, 0xA5, 0x03, 0xCC, 0x33, 0xC3, 0x3C], .ok) ∧
    sent (.setRotation 360) = some ([], .domainError) := by decide +kernel
/-- LU6, LU11 -/
theorem test_setBacklight :
    sent (.setBacklight (3 / 62)) = some ([0xAA, 0x30, 0x02, 0xCC, 0x33, 0xC3, 0x3C], .ok) ∧
    sent (.setBacklight (3 / 2)) = some ([], .domainError) := by decide +kernel
/-- A10 -/
theorem test_updateLcd : sent .updateLcd = some ([0xAA, 0x3D, 0xCC, 0x33, 0xC3, 0x3C], .ok) := by decide
/-- G4v, G5v -/
theorem test_clearFrame :
    sent (.clearFrame ⟨1 / 5, 2 / 5, 3 / 5⟩) = some ([0xAA, 0x01, 0x33, 0x33, 0xCC, 0x33, 0xC3, 0x3C], .ok) ∧
    sent (.clearFrame ⟨0, 2, 0⟩) = some ([], .domainError) := by decide +kernel
/-- G6v, G8v -/
theorem test_drawLine :
    sent (.drawLine 10 20 300 400 white) = some ([0xAA, 0x03, 0xFF, 0xFF, 0x00, 0x0A, 0x00, 0x14, 0x01, 0x2C, 0x01,
      0x90, 0xCC, 0x33, 0xC3, 0x3C], .ok) ∧
    sent (.drawLine 0 65536 0 0 white) = some ([], .encodingError) := by decide +kernel
/-- G12v, PR2 -/
theorem test_drawRect :
    sent (.drawRect 16 32 48 64 ⟨1, 1, 0⟩ 2) = some ([0xAA, 0x05, 0x02, 0xFF, 0xE0, 0x00, 0x10, 0x00, 0x20, 0x00, 0x30,
      0x00, 0x40, 0xCC, 0x33, 0xC3, 0x3C], .ok) ∧
    sent (.drawRect (-1) 0 0 0 ⟨2, 0, 0⟩ 1) = some ([], .domainError) := by decide +kernel
/-- X2, PR1 -/
theorem test_drawString :
    sent (.drawString 10 20 [0x48, 0x69] 3 white (some ⟨0, 0, 1⟩) false) = some ([0xAA, 0x11, 0xC3, 0xFF, 0xFF, 0x00,
      0x1F, 0x00, 0x0A, 0x00, 0x14, 0x48, 0x69, 0xCC, 0x33, 0xC3, 0x3C], .ok) ∧
    sent (.drawString 70000 0 [0x78] 12 white none true) = some ([], .domainError) := by decide +kernel
/-- N1v, N12v -/
theorem test_drawNumber :
    sent (.drawNumber 100 50 (-48342) 2 white none true 5 2 false false) = some ([0xAA, 0x14, 0x62, 0xFF, 0xFF, 0x00,
      0x00, 0x05, 0x02, 0x00, 0x64, 0x00, 0x32, 0xFF, 0xB6, 0x3C, 0x68, 0xCC, 0x33, 0xC3, 0x3C], .ok) ∧
    sent (.drawNumber 0 0 (21474836475 / 1000) 0 white none true 10 2 true false) = some ([], .encodingError) := by
  decide +kernel
/-- N6v, N14v, under the tables of R118. -/
theorem test_drawNumber_shift :
    (encodeCommandWith r118 (.drawNumber 100 50 (-4 / 10) 0 white none true 1 0 false false)).toOption
      = some [0xAA, 0x14, 0x60, 0xFF, 0xFF, 0x00, 0x00, 0x01, 0x00, 0x00, 0x6A, 0x00, 0x32, 0x00, 0x00, 0x00, 0x00, 0xCC,
        0x33, 0xC3, 0x3C] ∧
    (encodeCommandWith r118 (.drawNumber 65530 0 5 9 white none true 1 0 false false)).toOption = none := by
  decide +kernel
/-- QR2, QR5 -/
theorem test_drawQr :
    sent (.drawQr 0 0 [] 0) = some ([0xAA, 0x21, 0, 0, 0, 0, 0, 0xCC, 0x33, 0xC3, 0x3C], .ok) ∧
    sent (.drawQr 0 0 [0xC3] 1) = some ([], .encodingError) := by decide +kernel
/-- G17v, G19v -/
theorem test_loadJpeg :
    sent (.loadJpeg 255) = some ([0xAA, 0x22, 0x00, 0xFF, 0xCC, 0x33, 0xC3, 0x3C], .ok) ∧
    sent (.loadJpeg (-1)) = some ([], .encodingError) := by decide +kernel

/-! Steps: ST2, ST4, ST7 (P5), K11, K16, K19, K20. -/

theorem test_emit : (busy.emit.tx, busy.emit.txIdx) = ([0xAA, 0x3D, 0xCC, 0x33], 4) := by decide
theorem test_issue_waits : nextOf (exec .handshake busy) = some busy := by decide
theorem test_reset_keeps_line : (busy.resetBlock.txBuf, busy.resetBlock.tx) = ([], [0xAA, 0x3D, 0xCC]) := by decide
theorem test_hunt_prefix : ((hunting [0xAA, 0x01]).rxByte.rxState, (hunting [0xAA, 0x01]).rxByte.rx) = (.body, [0x01]) := by
  decide
theorem test_body_completes :
    ((inBody [0x01, 0xCC, 0x33, 0xC3] [0x3C, 0x05]).rxByte.rxRes, (inBody [0x01, 0xCC, 0x33, 0xC3] [0x3C, 0x05]).rxByte.rx)
      = (.frame [] [0x01], [0x05]) := by decide
theorem test_timeout_discards :
    ((inBody [0x00, 0x4F] [0x3C]).rxTimeout.rxRes, (inBody [0x00, 0x4F] [0x3C]).rxTimeout.rx) = (.noResponse, [0x3C]) := by
  decide
/-- K8, K15. -/
theorem test_recognize :
    recognize [0xAA, 0xCC, 0x33, 0xCC, 0x33, 0xC3, 0x3C] = .complete [] [0xAA] [0xCC, 0x33] [0xCC, 0x33, 0xC3, 0x3C] [] ∧
    recognize [0xAA, 0x33, 0xC3, 0x3C] = .incomplete := by decide
/-- F6v, F13v, F18v. -/
theorem test_font_queries :
    largestFontForHeight r118 30 = some 4 ∧ largestFontForWidth r118 272 20 = some 3 ∧
    largestFontForWidth r118 0 0 = some 9 := by decide +kernel
/-- S9. -/
theorem test_terminate_wins :
    ((({ tx := [], rd := 0, term := false } : Queue).putTransmit [0xAA]).putReadRequest.terminate.take).map Prod.fst
      = some .terminate := by decide
/-- MemRead of the value field of vector S3. -/
theorem test_memRead : memRead [0xAA, 0x01, 0xFF, 0xB6, 0x3C, 0x68] 2 4 = 0xFFB63C68 := by decide

/-! Witnesses: the hypotheses of the statements, met. -/

/-- Also the hypothesis of BlockEncoderMatchesLayouts. -/
theorem test_witness_DecodeEncodeRoundTrip :
    wellFormedWith r118 .handshake = true ∧ wellFormedWith r118 (.setRotation 270) = true ∧
    wellFormedWith r118 (.setBacklight (30 / 31)) = true ∧ wellFormedWith r118 .updateLcd = true ∧
    wellFormedWith r118 (.clearFrame ⟨0, 62 / 63, 1⟩) = true ∧
    wellFormedWith r118 (.drawLine 0 65535 1 2 white) = true ∧ wellFormedWith r118 (.drawRect 0 0 0 65535 black 2) = true ∧
    wellFormedWith r118 (.drawString 1 2 [0, 127] 9 white (some black) false) = true ∧
    wellFormedWith r118 (.drawNumber (-6) 0 (21474836 / 100) 0 white none true 255 2 false true) = true ∧
    wellFormedWith r118 (.drawQr 0 65535 [65] 255) = true ∧ wellFormedWith r118 (.loadJpeg 255) = true := by
  decide +kernel
theorem test_witness_EncodeDecodeRoundTrip :
    decodeWith r118 [0xAA, 0x22, 0x00, 0xFF, 0xCC, 0x33, 0xC3, 0x3C] = .ok (.loadJpeg 255) := by rfl
/-- Also the hypothesis of FrameShapeAndLength. -/
theorem test_witness_EmittedFramesDecode :
    encodeCommandWith r118 (.loadJpeg 255) = .ok [0xAA, 0x22, 0x00, 0xFF, 0xCC, 0x33, 0xC3, 0x3C] := by rfl
theorem test_witness_IssueStep :
    busy.txBusy = true ∧ State.reset.txBusy = false ∧
    encodeCommand .updateLcd = .ok [0xAA, 0x3D, 0xCC, 0x33, 0xC3, 0x3C] ∧
    encodeCommand (.setRotation 45) = .error .domain ∧ encodeCommand (.loadJpeg 256) = .error .encoding := by
  refine ⟨rfl, rfl, rfl, rfl, rfl⟩
theorem test_witness_HandshakeFrame : State.reset.txBusy = false := by rfl
theorem test_witness_SetRotationFrame :
    State.reset.txBusy = false ∧ (3 ≤ 3 ∧ (270 : Int) = 90 * (3 : Nat)) ∧ (360 : Int) ∉ [(0 : Int), 90, 180, 270] := by
  decide
theorem test_witness_SetBacklightFrame :
    State.reset.txBusy = false ∧ ((0 : NUM) ≤ 1 ∧ (1 : NUM) ≤ 1) ∧ ((0 : NUM) ≤ 0 ∧ (0 : NUM) ≤ 1) ∧
    ((-1 / 1000 : NUM) < 0) ∧ (1 : NUM) < 1001 / 1000 := by decide +kernel
theorem test_witness_ClearFrameFrame : State.reset.txBusy = false ∧ legalColor white ∧ ¬legalColor ⟨0, 2, 0⟩ := by
  decide +kernel
theorem test_witness_DrawLineFrame :
    State.reset.txBusy = false ∧ (legalColor white ∧ fitsU 2 0 ∧ fitsU 2 65535 ∧ fitsU 2 1 ∧ fitsU 2 2) ∧
    ¬legalColor ⟨0, 0, 5⟩ ∧ (legalColor black ∧ ¬(fitsU 2 0 ∧ fitsU 2 65536 ∧ fitsU 2 0 ∧ fitsU 2 0)) := by
  decide +kernel
theorem test_witness_DrawRectFrame :
    State.reset.txBusy = false ∧
    ((2 : Int) ∈ [(0 : Int), 1, 2] ∧ legalColor white ∧ fitsU 2 0 ∧ fitsU 2 65535 ∧ fitsU 2 1 ∧ fitsU 2 2) ∧
    ¬((3 : Int) ∈ [(0 : Int), 1, 2] ∧ legalColor black) ∧ ¬((1 : Int) ∈ [(0 : Int), 1, 2] ∧ legalColor ⟨2, 0, 0⟩) ∧
    ((0 : Int) ∈ [(0 : Int), 1, 2] ∧ legalColor black ∧ ¬(fitsU 2 (-1) ∧ fitsU 2 0 ∧ fitsU 2 0 ∧ fitsU 2 0)) := by
  decide +kernel
theorem test_witness_LoadJpegFrame :
    State.reset.txBusy = false ∧ ((0 : Int) ≤ 255 ∧ (255 : Int) ≤ 255) ∧ ((-1 : Int) < 0) ∧ (255 : Int) < 256 := by
  decide

theorem legalBackground_none : legalBackground none := fun _ h => nomatch h
theorem legalBackground_some (c : Color) (h : legalColor c) : legalBackground (some c) :=
  fun _ hd => Option.some.inj hd ▸ h
theorem not_legalBackground (c : Color) (h : ¬legalColor c) : ¬legalBackground (some c) := fun hb => h (hb c rfl)

theorem test_witness_DrawStringFrame :
    State.reset.txBusy = false ∧
    (((0 : Int) ≤ 9 ∧ (9 : Int) ≤ 9) ∧ legalColor white ∧ legalBackground (some black) ∧ fitsU 2 0 ∧ fitsU 2 65535 ∧
      asciiText [0, 127]) ∧
    ¬(((0 : Int) ≤ 10 ∧ (10 : Int) ≤ 9) ∧ legalColor white ∧ legalBackground none) ∧
    ¬(((0 : Int) ≤ 0 ∧ (0 : Int) ≤ 9) ∧ legalColor white ∧ legalBackground (some ⟨0, 0, 2⟩)) ∧
    (((0 : Int) ≤ 0 ∧ (0 : Int) ≤ 9) ∧ legalColor white ∧ legalBackground none ∧
      ¬(fitsU 2 0 ∧ fitsU 2 0 ∧ asciiText [128])) := by
  have hw : legalColor white := by decide +kernel
  have hb : legalColor black := by decide +kernel
  have hx : ¬legalColor ⟨0, 0, 2⟩ := by decide +kernel
  exact ⟨rfl, ⟨by decide, hw, legalBackground_some _ hb, by decide, by decide, by decide⟩,
    fun h => absurd h.1 (by decide), fun h => not_legalBackground _ hx h.2.2,
    ⟨by decide, hw, legalBackground_none, by decide⟩⟩
theorem test_witness_DrawNumberFrame :
    State.reset.txBusy = false ∧
    (2147483647 : Int) = roundHaz ((21474836474 / 1000 : NUM) * 10 ^ (2 : Int).toNat) ∧
    (7 : Int) = (if true = true ∧ true = false ∧ (0 : Int) ≤ 2147483647
      then 7 + (Config.fonts.width (Fin.ofNat 10 (0 : Int).toNat) : Int) else 7) ∧
    (((0 : Int) ≤ 0 ∧ (0 : Int) ≤ 9) ∧ legalColor white ∧ legalBackground none ∧ fitsU 1 255 ∧ fitsU 1 2 ∧ fitsU 2 7 ∧
      fitsU 2 65535 ∧ ((-2147483648 : Int) ≤ 2147483647 ∧ (2147483647 : Int) ≤ 2147483647)) ∧
    ¬(((0 : Int) ≤ 12 ∧ (12 : Int) ≤ 9) ∧ legalColor white ∧ legalBackground none) ∧
    (2147483648 : Int) = roundHaz ((21474836475 / 1000 : NUM) * 10 ^ (2 : Int).toNat) ∧
    ¬((-2147483648 : Int) ≤ 2147483648 ∧ (2147483648 : Int) ≤ 2147483647) ∧ ¬fitsU 1 256 ∧ ¬fitsU 1 (-1) := by
  have hw : legalColor white := by decide +kernel
  exact ⟨rfl, by decide +kernel, by simp, ⟨by decide, hw, legalBackground_none, by decide, by decide, by decide, by decide,
    by decide⟩, fun h => absurd h.1 (by decide), by decide +kernel, by decide, by decide, by decide⟩
theorem test_witness_DrawQrFrame :
    State.reset.txBusy = false ∧ (fitsU 2 0 ∧ fitsU 2 65535 ∧ fitsU 1 255 ∧ asciiText [127]) ∧
    ¬(fitsU 2 0 ∧ fitsU 2 0 ∧ fitsU 1 256 ∧ asciiText []) := by decide
theorem test_witness_ScalarEncoders :
    (1 ∈ [1, 2, 4, 8] ∧ (0 : Int) ≤ 255 ∧ (255 : Int) < 2 ^ (8 * 1)) ∧ ¬((0 : Int) ≤ 256 ∧ (256 : Int) < 2 ^ (8 * 1)) ∧
    (-2 ^ (8 * 1 - 1) ≤ (-128 : Int) ∧ (-128 : Int) < 2 ^ (8 * 1 - 1)) ∧
    ¬(-2 ^ (8 * 1 - 1) ≤ (128 : Int) ∧ (128 : Int) < 2 ^ (8 * 1 - 1)) := by decide
theorem test_witness_ChannelQuantizer :
    31 ∈ [31, 63] ∧ ((0 : NUM) ≤ 1 / 62 ∧ (1 / 62 : NUM) ≤ 1) ∧ (-1 / 1000 : NUM) < 0 ∧ (1 : NUM) < 1001 / 1000 ∧
    (1 / 63 : NUM) ≤ 1 / 62 ∧ (quant 31 (1 / 63)).toOption = some 0 ∧ (quant 31 (1 / 62)).toOption = some 1 ∧
    ((31 : Nat) : NUM) * (1 / 62) + 1 / 2 = (1 : Nat) := by decide +kernel
theorem test_witness_ColourWordFields : (encColor ⟨1, 0, 0⟩).toOption = some [0xF8, 0x00] := by decide +kernel
theorem test_witness_RoundHalfAwayFromZero :
    |(roundHaz (5 / 2) : NUM) - 5 / 2| = 1 / 2 ∧ |(roundHaz (-5 / 2) : NUM) - (-5 / 2)| = 1 / 2 ∧ (0 : NUM) ≤ 5 / 2 := by
  have h1 : roundHaz (5 / 2) = 3 := by decide +kernel
  have h2 : roundHaz (-5 / 2) = -3 := by decide +kernel
  rw [h1, h2]
  norm_num
theorem test_witness_LuminanceByte :
    ((0 : NUM) ≤ 99 / 100 ∧ (99 / 100 : NUM) ≤ 1) ∧ (-1 / 1000 : NUM) < 0 ∧ (1 : NUM) < 3 / 2 := by decide +kernel
theorem test_witness_TextEncoder : asciiText [0, 127] ∧ ¬asciiText [0x48, 0xE9] := by decide
theorem test_witness_FlagsBits : (9 : Nat) ≤ 9 := by decide
theorem test_witness_EmitStep : busy.txIdx < busy.txBuf.length ∧ State.reset.txBuf.length ≤ State.reset.txIdx := by decide
theorem test_witness_EmitsToQuiescence : busy.sched = [] ∧ busy.txIdx ≤ busy.txBuf.length := by decide
theorem test_witness_FramesContiguousInOrder :
    busy.inv = true ∧ busy.sched.head? ≠ some .reset ∧ step busy = .next busy.emit := by
  exact ⟨by decide, by decide, rfl⟩
theorem test_witness_StepKeepsInvariant :
    (inBody [0x01, 0xCC, 0x33, 0xC3] [0x3C]).inv = true ∧
    step (inBody [0x01, 0xCC, 0x33, 0xC3] [0x3C]) = .next (inBody [0x01, 0xCC, 0x33, 0xC3] [0x3C]).rxByte := by
  exact ⟨by decide, rfl⟩
theorem test_witness_ArmStep : State.reset.rxState = .idle ∧ (hunting []).rxState ≠ .idle := by decide
theorem test_witness_WaitingReadIsServed :
    (State.reset.requestRead.portOwned = false ∧ State.reset.requestRead.rxState = .idle ∧
      0 < State.reset.requestRead.arms) ∧ (hunting []).rxState ≠ .idle ∧ State.reset.arms = 0 ∧
    State.reset.scopeEnter.requestRead.worker.phase = .running := by decide
theorem test_witness_HuntByteStep :
    (hunting [0xAA]).rxState = .hunt ∧ (hunting [0xAA]).rx = [0xAA] ∧ (hunting [0xCC]).rx = [0xCC] ∧
    (0xCC : Byte) ≠ 0xAA := by decide
theorem test_witness_BodyByteStep :
    (inBody [0xCC, 0x33, 0xC3] [0x3C]).rxState = .body ∧ (inBody [0xCC, 0x33, 0xC3] [0x3C]).rx = [0x3C] ∧
    (inBody [0xCC, 0x33, 0xC3] [0x3C]).rxBody ++ [0x3C] = [] ++ [0xCC, 0x33, 0xC3, 0x3C] ∧
    (∀ body : Bytes, [0x33, 0xC3] ++ [(0x3C : Byte)] ≠ body ++ [0xCC, 0x33, 0xC3, 0x3C]) := by
  refine ⟨by decide, by decide, by decide, fun body h => ?_⟩
  have hl := congrArg List.length h
  simp at hl
theorem test_witness_IdleDecoderTakesNothing : State.reset.rxState = .idle ∧ (hunting []).rx = [] := by decide
theorem test_witness_TimeoutStep :
    (hunting []).rxState = .hunt ∧ (inBody [] []).rxState = .body ∧ State.reset.rxState = .idle := by decide
theorem test_witness_DecoderAgreesWithRecognize :
    (hunting ([0x00, 0xAA, 0x01, 0xCC, 0x33, 0xC3, 0x3C, 0xAA] ++ [0x05])).rxState = .hunt ∧
    (hunting [0x05]).rxPre = [] ∧ (hunting [0x05]).rxBody = [] ∧ recognize [0xAA, 0x01] = .incomplete ∧
    recognize [0x00, 0xAA, 0x01, 0xCC, 0x33, 0xC3, 0x3C, 0xAA]
      = .complete [0x00] [0xAA] [0x01] [0xCC, 0x33, 0xC3, 0x3C] [0xAA] := by decide
theorem test_witness_ShortFramesNeverCut :
    encodeCommand (.setRotation 90) = .ok [0xAA, 0x34, 0x5A, 0xA5, 0x01, 0xCC, 0x33, 0xC3, 0x3C] := by rfl
/-- H2 -/
theorem test_witness_SuffixHazardOfDrawQr :
    (fitsU 1 1 ∧ asciiText [0x41]) ∧ encodeCommand (.drawQr 0xCC33 0xC33C [0x41] 1)
      = .ok [0xAA, 0x21, 0xCC, 0x33, 0xC3, 0x3C, 0x01, 0x41, 0xCC, 0x33, 0xC3, 0x3C] := by
  exact ⟨by decide, rfl⟩
theorem test_witness_LargestFont : r118.Admissible ∧ (0 : Int) ≤ 0 ∧ (64 : Int) ≤ 64 := by decide
theorem test_witness_AgentsShareNoState :
    busy.act .emit = .next busy.emit ∧ busy.act .issue = .next busy ∧ State.reset.act .rxArm = .next State.reset ∧
    (hunting [0xAA]).act .rxByte = .next (hunting [0xAA]).rxByte ∧
    (hunting []).act .rxTimeout = .next (hunting []).rxTimeout := by
  refine ⟨rfl, rfl, rfl, rfl, rfl⟩
/-- A handshake in its wire form at the port, an `issue` next. -/
def atPort : State := State.reset.presentFirst [0xAA, 0x00, 0xCC, 0x33, 0xC3, 0x3C]
theorem test_witness_StepRunsDecodedCommand :
    (atPort.cmd = [.wire [0xAA, 0x00, 0xCC, 0x33, 0xC3, 0x3C]] ∧
      decode [0xAA, 0x00, 0xCC, 0x33, 0xC3, 0x3C] = .ok .handshake ∧ atPort.sched = [.issue] ∧
      atPort.portOwned = false ∧ atPort.txBusy = false) ∧
    (busy.presentFirst [0xAA, 0x00, 0xCC, 0x33, 0xC3, 0x3C]).txBusy = true ∧
    (State.reset.scopeEnter.presentFirst [0xAA, 0x00, 0xCC, 0x33, 0xC3, 0x3C]).portOwned = true ∧
    (State.reset.present (.value (.setRotation 45))).cmd = [.value (.setRotation 45)] ∧
    (State.reset.present (.value (.setRotation 45))).sched = [] ∧
    decode [0xAA, 0x5A, 0xCC, 0x33, 0xC3, 0x3C] = .error .unknownCommand ∧
    (State.reset.presentFirst [0xAA, 0x5A, 0xCC, 0x33, 0xC3, 0x3C]).sched = [.issue] := by
  refine ⟨⟨rfl, rfl, rfl, rfl, rfl⟩, rfl, rfl, rfl, rfl, rfl, rfl⟩
theorem test_witness_FetchedWordRuns :
    State.reset.portOwned = false ∧ State.reset.txBusy = false ∧ decodeTableWord 16 0xAA3D = some .updateLcd := by
  exact ⟨rfl, rfl, rfl⟩
theorem test_witness_CommandsNeverStop : atPort.commandsOnly = true ∧ busy.commandsOnly = true := by decide
theorem test_witness_HostAndLineMoves : busy.tx = 0xAA :: [0x3D, 0xCC] ∧ State.reset.tx = [] := by decide
theorem test_witness_StepPerformsNextMove :
    atPort.sched = .issue :: [] ∧ (busy.sched = [] ∧ busy.txBusy = true) ∧
    (let s := State.reset.present (.value .handshake)
     s.sched = [] ∧ s.txBusy = false ∧ s.portOwned = false ∧ s.cmd ≠ []) ∧
    (let s := State.reset.requestRead
     s.sched = [] ∧ s.txBusy = false ∧ s.portOwned = false ∧ s.cmd = [] ∧ s.rxState = .idle ∧ 0 < s.arms) ∧
    (let s := hunting [0xAA]
     s.sched = [] ∧ s.txBusy = false ∧ s.cmd = [] ∧ s.rxState ≠ .idle ∧ s.rx ≠ []) ∧
    (let s := hunting []
     s.sched = [] ∧ s.txBusy = false ∧ s.cmd = [] ∧ s.rxState ≠ .idle ∧ s.rx = []) ∧
    (let s := State.reset.scopeEnter.requestRead
     s.sched = [] ∧ s.txBusy = false ∧ s.portOwned = true ∧ s.rxState = .idle) ∧ State.reset.ended = true := by decide
/-- R194: bytes may still arrive after the end; a frame in the worker's hands or in its queue is not the end. -/
theorem test_ended :
    ({ State.reset with sched := [.lineAppend 0xAA, .lineTake, .readOutputs] }).ended = true ∧
    ({ State.reset with sched := [.present (.value .handshake)] }).ended = false ∧
    (State.reset.scopeEnter.driverOp .handshake).ended = false ∧
    (State.reset.scopeEnter.driverOp .updateLcd).workerStep.ended = false ∧ busy.ended = false := by decide
theorem test_witness_QueueTake :
    ({ tx := [[0xAA]], rd := 1, term := true } : Queue).term = true ∧
    (({ tx := [[0xAA]], rd := 1, term := false } : Queue).term = false ∧
      ({ tx := [[0xAA]], rd := 1, term := false } : Queue).tx = [0xAA] :: []) ∧
    (({ tx := [], rd := 1, term := false } : Queue).tx = [] ∧ 0 < ({ tx := [], rd := 1, term := false } : Queue).rd) ∧
    ({ tx := [], rd := 0, term := false } : Queue).take = none := by decide
/-- S8: T1, T2, R1, and T1, R1, T2, from an empty queue. -/
theorem test_witness_QueueOrder :
    Queue.takes 3 ([some [1], some [2], none].foldl Queue.insert { tx := [], rd := 0, term := false })
      = [.transmit [1], .transmit [2], .readRequest] ∧
    Queue.takes 3 ([some [1], none, some [2]].foldl Queue.insert { tx := [], rd := 0, term := false })
      = [.transmit [1], .transmit [2], .readRequest] := by decide

/-- A worker in the phase `phase` within the scope `scope`, serving `serving`, with the queue `q` and the schedule
`ms`. -/
def inScope (scope : Scope) (phase : WorkerPhase) (serving : Serving) (q : Queue) (ms : List Move) : State :=
  { State.reset with
    worker := { phase := phase, serving := serving }, queue := q, sched := ms
    driver := { State.reset.driver with scope := scope } }
def working (serving : Serving) (q : Queue) (ms : List Move) : State := inScope .inside .running serving q ms
def emptyQueue : Queue := { tx := [], rd := 0, term := false }
/-- The owner's handle after a failure of the transport. -/
def faulted : State := (working .writing emptyQueue []).portError

/-- R148: a host's own command waits while the worker owns the port. -/
theorem test_direct_command_waits :
    nextOf ((working .reading emptyQueue []).presentFirst [0xAA, 0x00, 0xCC, 0x33, 0xC3, 0x3C]).issueNext
      = some ((working .reading emptyQueue []).presentFirst [0xAA, 0x00, 0xCC, 0x33, 0xC3, 0x3C]) := by decide
/-- R155: a read that timed out is reported through the channel. -/
theorem test_reply_sent :
    (({ working .reading emptyQueue [] with rxRes := .noResponse }).workerStep.takeReply).driver.replyTaken
      = some .noResponse := by decide
/-- R154: a holder that makes no further call gets the PortError at scope exit. -/
theorem test_portError_at_exit : faulted.scopeExit.workerStep.scopeJoin.driver.exitResult = some .portError := by decide

theorem test_witness_WorkerNeverSkipsAState :
    (nextOf (step { State.reset with sched := [.scopeEnter] })).map (fun s => s.worker.phase) = some .running ∧
    (nextOf (step (working .free emptyQueue.terminate [.workerStep]))).map (fun s => s.worker.phase) = some .draining ∧
    (nextOf (step (working .writing emptyQueue [.portError]))).map (fun s => s.worker.phase) = some .draining ∧
    (nextOf (step (inScope .leaving .draining .free emptyQueue.terminate [.workerStep]))).map
      (fun s => s.worker.phase) = some .stopped := by decide
theorem test_witness_TerminationIsPermanent :
    (working .free emptyQueue []).driver.scope = .inside ∧ State.reset.driver.scope ≠ .inside ∧
    (working .free emptyQueue.terminate [.driverOp .handshake]).queue.term = true ∧
    (nextOf (step (working .free emptyQueue.terminate [.driverOp .handshake]))).isSome = true := by decide
theorem test_witness_DriverOperation :
    ((working .free emptyQueue []).driver.scope = .inside ∧ (working .free emptyQueue []).driver.portFault = false) ∧
    encodeCommand .handshake = .ok [0xAA, 0x00, 0xCC, 0x33, 0xC3, 0x3C] ∧
    encodeCommand (.setRotation 7) = .error .domain ∧ encodeCommand (.loadJpeg 256) = .error .encoding ∧
    (faulted.driver.scope = .inside ∧ faulted.driver.portFault = true) ∧ State.reset.driver.scope ≠ .inside ∧
    0 < ((working .free emptyQueue []).driverOp .handshake).driver.owedReads ∧
    ({ State.reset with replies := [.noResponse] }).replies = .noResponse :: [] := by
  refine ⟨⟨rfl, rfl⟩, rfl, rfl, rfl, ⟨rfl, rfl⟩, by decide, by decide, rfl⟩
theorem test_witness_WorkerServesItems :
    (working .free (emptyQueue.putTransmit [0xAA]) []).worker.phase = .running ∧
    (working .free (emptyQueue.putTransmit [0xAA]) []).queue.take = some (.transmit [0xAA], emptyQueue) ∧
    (working .free emptyQueue.putReadRequest []).queue.take = some (.readRequest, emptyQueue) ∧
    (working .free emptyQueue.terminate []).queue.term = true ∧
    (working .free emptyQueue []).queue.take = none ∧
    encodeCommand .updateLcd = .ok [0xAA, 0x3D, 0xCC, 0x33, 0xC3, 0x3C] ∧
    (let s := working (.toWrite [0xAA, 0x3D, 0xCC, 0x33, 0xC3, 0x3C]) emptyQueue []
     s.txBusy = false ∧ s.rxState = .idle) ∧
    (let s := working .toRead emptyQueue []
     s.worker.serving = .toRead ∧ s.txBusy = false ∧ s.rxState = .idle) ∧
    (let s := { working (.toWrite [0xAA]) emptyQueue [] with txBuf := [0xAA] }
     s.worker.serving = .toWrite [0xAA] ∧ s.txBusy = true) ∧
    (let s := { working .toRead emptyQueue [] with rxState := .hunt }
     s.worker.serving = .toRead ∧ s.rxState ≠ .idle) ∧
    (let s := { working .writing emptyQueue [] with txBuf := [0xAA] }
     s.worker.serving = .writing ∧ s.txBusy = true) ∧
    (let s := { working .reading emptyQueue [] with rxState := .hunt }
     s.worker.serving = .reading ∧ s.rxState ≠ .idle) ∧
    (working .writing emptyQueue []).txBusy = false ∧ (working .reading emptyQueue []).rxState = .idle := by
  refine ⟨rfl, rfl, rfl, rfl, rfl, rfl, ⟨rfl, rfl⟩, ⟨rfl, rfl, rfl⟩, ⟨rfl, rfl⟩, ⟨rfl, by decide⟩, ⟨rfl, rfl⟩,
    ⟨rfl, by decide⟩, rfl, rfl⟩
theorem test_witness_ScopeLifetime :
    (State.reset.driver.scope = .notEntered ∧ State.reset.worker.phase = .idle) ∧
    State.reset.scopeEnter.driver.scope = .inside ∧
    (let s := inScope .leaving .stopped .free emptyQueue.terminate []
     s.driver.scope = .leaving ∧ s.worker.phase = .stopped) ∧
    (let s := inScope .leaving .running .free emptyQueue.terminate [.workerStep, .workerStep, .scopeJoin]
     s.inv = true ∧ s.driver.scope = .leaving ∧ s.worker.phase = .running ∧ s.worker.serving = .free ∧
       s.worker.phase ≠ .stopped ∧ s.sched = .workerStep :: .workerStep :: .scopeJoin :: []) := by decide

end Sys2Proof.Tests
end

section
/-! R20: the `issue` step of every command. Whatever `encode(c)` is, `exec` is one of three rules: a busy encoder
makes the command wait, a frame is loaded, an error class is raised. -/

namespace Sys2Proof.Machine

open Sys2Proof

/-- R20, D17: a command presented while a frame is in flight waits. -/
theorem exec_of_txBusy (c : Instr) {s : State} (hbusy : s.txBusy = true) : exec c s = .next s := by
  rw [exec_eq_issue, s.issue_busy _ _ hbusy]

/-- R20, first arm: an idle encoder loads the frame of the command. -/
theorem exec_of_encode_ok {c : Instr} {s : State} {frame : Bytes} (hidle : s.txBusy = false)
    (henc : encodeCommand c = .ok frame) : exec c s = .next (s.load frame (replyExpected c)) := by
  rw [exec_eq_issue, henc, s.issue_ok _ _ hidle]

/-- R20, second arm, with R164 and R165: an idle encoder raises the class of the error. -/
theorem exec_of_encode_error {c : Instr} {s : State} {e : EncErr} (hidle : s.txBusy = false)
    (henc : encodeCommand c = .error e) : exec c s = .next (s.raise e) := by
  rw [exec_eq_issue, henc, s.issue_error _ _ hidle]

/-- Settles O7: `exec` is the `issue` step on `encode(c)`, and each clause is one of its three rules; the whole next
state is what `State.load` and `State.raise` write. -/
theorem issueStep : Obligations.IssueStep := by
  intro c s
  refine ⟨fun hbusy => ?waits, fun hidle frame henc => ?loads, fun hidle henc => ?domain, fun hidle henc => ?encoding⟩
  case waits => exact exec_of_txBusy c hbusy
  case loads => exact exec_of_encode_ok hidle henc
  case domain => exact exec_of_encode_error hidle henc
  case encoding => exact exec_of_encode_error hidle henc

end Sys2Proof.Machine
end

section
/-! R56 and R57: rounding is fixed on the non-negative numbers, where it is a floor, and carried to the negative ones
by oddness; the luminance byte is that floor. -/

namespace Sys2Proof.Machine

open Sys2Proof

theorem roundHaz_of_nonneg {q : NUM} (hq : 0 ≤ q) : roundHaz q = ⌊q + 1 / 2⌋ := by
  rw [roundHaz_eq, if_pos hq]

theorem roundHaz_of_neg {q : NUM} (hq : q < 0) : roundHaz q = -roundHaz (-q) := by
  rw [roundHaz_of_nonneg (neg_nonneg.mpr hq.le), roundHaz_eq q, if_neg hq.not_ge]

/-- Half open: a tie goes up, so only the upper end is reached. -/
theorem roundHaz_mem_Ioc {q : NUM} (hq : 0 ≤ q) : (roundHaz q : NUM) ∈ Set.Ioc (q - 1 / 2) (q + 1 / 2) := by
  rw [roundHaz_of_nonneg hq]
  exact ⟨by linarith [Int.lt_floor_add_one (q + 1 / 2)], Int.floor_le (q + 1 / 2)⟩

/-- By oddness the error of rounding is the error at `|q|`. -/
theorem abs_roundHaz_sub (q : NUM) : |(roundHaz q : NUM) - q| = |(roundHaz |q| : NUM) - (|q|)| := by
  rcases le_or_gt 0 q with hq | hq
  · rw [abs_of_nonneg hq]
  · rw [abs_of_neg hq, roundHaz_of_neg hq, Int.cast_neg, ← abs_neg]
    congr 1
    ring

theorem abs_roundHaz (q : NUM) : |(roundHaz q : NUM)| = |(roundHaz |q| : NUM)| := by
  rcases le_or_gt 0 q with hq | hq
  · rw [abs_of_nonneg hq]
  · rw [abs_of_neg hq, roundHaz_of_neg hq, Int.cast_neg, abs_neg]

theorem abs_roundHaz_sub_le (q : NUM) : |(roundHaz q : NUM) - q| ≤ 1 / 2 := by
  obtain ⟨hlow, hhigh⟩ := roundHaz_mem_Ioc (abs_nonneg q)
  rw [abs_roundHaz_sub, abs_le]
  constructor <;> linarith

/-- At a tie the rounded `|q|` is `|q| + 1/2`: the other integer at distance 1/2 is outside the interval. -/
theorem abs_lt_abs_roundHaz_of_tie {q : NUM} (htie : |(roundHaz q : NUM) - q| = 1 / 2) :
    |q| < |(roundHaz q : NUM)| := by
  obtain ⟨hlow, -⟩ := roundHaz_mem_Ioc (abs_nonneg q)
  rw [abs_roundHaz_sub] at htie
  rw [abs_roundHaz]
  rcases eq_or_eq_neg_of_abs_eq htie with hup | hdown
  · calc |q| < (roundHaz |q| : NUM) := by linarith
      _ ≤ |(roundHaz |q| : NUM)| := le_abs_self _
  · linarith

/-- Settles O24: the floor form gives the half-open interval of `roundHaz_mem_Ioc`, and the sign symmetry carries it
to every rational. -/
theorem roundHalfAwayFromZero : Obligations.RoundHalfAwayFromZero :=
  fun q => ⟨abs_roundHaz_sub_le q, abs_lt_abs_roundHaz_of_tie, roundHaz_of_nonneg⟩

/-- Settles O25: on [0, 1] the byte is the quantized channel of `encLuminance_ok`, which is at most 31 and so is read
back unchanged from eight bits; outside, the quantizer raises. -/
theorem luminanceByte : Obligations.LuminanceByte := by
  intro l
  refine ⟨fun hl => ⟨_, encLuminance_ok l hl, ?_⟩, fun hl => encLuminance_error l ?outside⟩
  case outside =>
    rintro ⟨h0, h1⟩
    rcases hl with hl | hl <;> linarith
  have hmax : ⌊31 * l + 1 / 2⌋.toNat ≤ 31 := floor_half_toNat_le 31 l hl
  have hscaled : 0 ≤ 31 * l := by linarith [hl.1]
  have hfloor : 0 ≤ ⌊31 * l + 1 / 2⌋ := Int.floor_nonneg.mpr (by linarith)
  rw [BitVec.toNat_ofNat, Nat.mod_eq_of_lt (by omega), roundHaz_of_nonneg hscaled]
  exact ⟨hmax, Int.toNat_of_nonneg hfloor⟩

/-- Settles O27: the case split over the commands. -/
theorem replyExpectedCommands : Obligations.ReplyExpectedCommands := by
  intro c
  cases c with
  | handshake => exact iff_of_true rfl (.inl rfl)
  | setRotation angle => exact iff_of_true rfl (.inr ⟨angle, rfl⟩)
  | _ => simp [replyExpected]

end Sys2Proof.Machine
end

section
/-! R80 to R83: the control commands. For each, first what `encode(c)` answers on every operand; an idle encoder then
loads that frame or raises that class by the rules of the `issue` step. -/

namespace Sys2Proof.Machine

open Sys2Proof

/-- R49: a one-byte field is the byte itself. -/
theorem encU_one_ok {v : Int} (h : 0 ≤ v ∧ v ≤ 255) : encU 1 v = .ok [BitVec.ofNat 8 v.toNat] := by
  rw [encU_ok 1 v (by omega)]
  simp only [beBytes, Nat.mul_zero, Nat.pow_zero, Nat.div_one]

/-- R59: the index of an angle is the number of quarter turns. -/
theorem rotIndex_quarterTurns {k : Nat} (hk : k ≤ 3) : rotIndex (90 * k) = .ok k := by
  interval_cases k <;> rfl

theorem rotIndex_error {angle : Int} (h : angle ∉ [0, 90, 180, 270]) : rotIndex angle = .error .domain := by
  simp only [List.mem_cons, List.not_mem_nil, or_false, not_or] at h
  obtain ⟨h0, h90, h180, h270⟩ := h
  rw [rotIndex, if_neg h0, if_neg h90, if_neg h180, if_neg h270]

/-- R54: the two ways to be outside [0, 1]. -/
theorem not_legalChannel {c : NUM} (h : c < 0 ∨ 1 < c) : ¬legalChannel c := by
  rintro ⟨h0, h1⟩
  rcases h with hneg | hbig
  · exact hneg.not_ge h0
  · exact hbig.not_ge h1

theorem encodeCommand_handshake : encodeCommand .handshake = .ok [0xAA, 0x00, 0xCC, 0x33, 0xC3, 0x3C] := rfl

theorem encodeCommand_updateLcd : encodeCommand .updateLcd = .ok [0xAA, 0x3D, 0xCC, 0x33, 0xC3, 0x3C] := rfl

theorem encodeCommand_setRotation_ok {k : Nat} (hk : k ≤ 3) :
    encodeCommand (.setRotation (90 * k)) =
      .ok [0xAA, 0x34, 0x5A, 0xA5, BitVec.ofNat 8 k, 0xCC, 0x33, 0xC3, 0x3C] := by
  have hbyte : encU 1 k = .ok [BitVec.ofNat 8 k] := encU_one_ok (by omega)
  change encSetRotation (90 * k) = _
  rw [encSetRotation, rotIndex_quarterTurns hk]
  simp only [bind, Except.bind, hbyte]
  rfl

theorem encodeCommand_setRotation_error {angle : Int} (h : angle ∉ [0, 90, 180, 270]) :
    encodeCommand (.setRotation angle) = .error .domain := by
  change encSetRotation angle = _
  rw [encSetRotation, rotIndex_error h]
  rfl

theorem encodeCommand_setBacklight_ok {level : NUM} (h : legalChannel level) :
    encodeCommand (.setBacklight level) =
      .ok [0xAA, 0x30, BitVec.ofNat 8 ⌊31 * level + 1 / 2⌋.toNat, 0xCC, 0x33, 0xC3, 0x3C] := by
  change encSetBacklight level = _
  rw [encSetBacklight, encLuminance_ok level h]
  rfl

theorem encodeCommand_setBacklight_error {level : NUM} (h : ¬legalChannel level) :
    encodeCommand (.setBacklight level) = .error .domain := by
  change encSetBacklight level = _
  rw [encSetBacklight, encLuminance_error level h]
  rfl

/-- Settles O10: the angle `90 k` has index `k`, which one byte holds; every other angle has none, and R81 gives that
the class DomainError. -/
theorem setRotationFrame : Obligations.SetRotationFrame := by
  intro angle s hidle
  refine ⟨fun k hk hangle => ?fourAngles, fun hother => ?otherAngle⟩
  case fourAngles =>
    subst hangle
    exact exec_of_encode_ok hidle (encodeCommand_setRotation_ok hk)
  case otherAngle => exact exec_of_encode_error hidle (encodeCommand_setRotation_error hother)

/-- Settles O11: the luminance of a legal level is a quantized channel, so at most 31; outside [0, 1] the quantizer
raises. -/
theorem setBacklightFrame : Obligations.SetBacklightFrame := by
  intro level s hidle
  refine ⟨fun hlegal => ⟨?atMost31, ?loads⟩, fun houtside => ?raises⟩
  case atMost31 => exact floor_half_toNat_le 31 level hlegal
  case loads => exact exec_of_encode_ok hidle (encodeCommand_setBacklight_ok hlegal)
  case raises => exact exec_of_encode_error hidle (encodeCommand_setBacklight_error (not_legalChannel houtside))

/-- Settles O8: `enc_handshake` has no operand, so its frame is a constant and it raises nothing. -/
theorem handshakeFrame : Obligations.HandshakeFrame :=
  fun _ hidle => exec_of_encode_ok hidle encodeCommand_handshake

/-- Settles O9: as for handshake; the two differ in the command byte and in the reply expectation of R48. -/
theorem updateLcdFrame : Obligations.UpdateLcdFrame :=
  fun _ hidle => exec_of_encode_ok hidle encodeCommand_updateLcd

end Sys2Proof.Machine
end

section
/-! R93: load_jpeg. Only the one-byte id can fail, so `encode(c)` answers as `enc_u(1, id)` does (R50). -/

namespace Sys2Proof.Machine

open Sys2Proof

/-- R50: the two ways to be outside a one-byte field. -/
theorem encU_one_error {v : Int} (h : v < 0 ∨ 255 < v) : encU 1 v = .error .encoding :=
  encU_error 1 v (by omega)

theorem encodeCommand_loadJpeg_ok {id : Int} (h : 0 ≤ id ∧ id ≤ 255) :
    encodeCommand (.loadJpeg id) = .ok [0xAA, 0x22, 0x00, BitVec.ofNat 8 id.toNat, 0xCC, 0x33, 0xC3, 0x3C] := by
  change encLoadJpeg id = _
  rw [encLoadJpeg, encU_one_ok h]
  rfl

theorem encodeCommand_loadJpeg_error {id : Int} (h : id < 0 ∨ 255 < id) :
    encodeCommand (.loadJpeg id) = .error .encoding := by
  change encLoadJpeg id = _
  rw [encLoadJpeg, encU_one_error h]
  rfl

/-- Settles O15: an id of one byte is sent as that byte; any other is refused by the one-byte field, and R93 gives
that the class EncodingError. -/
theorem loadJpegFrame : Obligations.LoadJpegFrame := by
  intro id s hidle
  refine ⟨fun hbyte => ?loads, fun houtside => ?raises⟩
  case loads => exact exec_of_encode_ok hidle (encodeCommand_loadJpeg_ok hbyte)
  case raises => exact exec_of_encode_error hidle (encodeCommand_loadJpeg_error houtside)

end Sys2Proof.Machine
end

section
/-! R108: draw_qr. The four operands are encoded in wire order, and each encoder can raise EncodingError only, so the
class does not depend on which operand fails first. -/

namespace Sys2Proof.Machine

open Sys2Proof

theorem encodeCommand_drawQr_ok {x y : Int} {text : Text} {pixelSize : Int} (hx : fitsU 2 x) (hy : fitsU 2 y)
    (hsize : fitsU 1 pixelSize) (htext : asciiText text) :
    encodeCommand (.drawQr x y text pixelSize) =
      .ok ([0xAA, 0x21] ++ beBytes 2 x.toNat ++ beBytes 2 y.toNat ++ [BitVec.ofNat 8 pixelSize.toNat] ++
        text.map (BitVec.ofNat 8) ++ [0xCC, 0x33, 0xC3, 0x3C]) := by
  have hbyte : encU 1 pixelSize = .ok [BitVec.ofNat 8 pixelSize.toNat] := encU_one_ok (by omega)
  change encDrawQr x y text pixelSize = _
  rw [encDrawQr, encU_ok 2 x hx, encU_ok 2 y hy, hbyte, encText_ok text htext]
  rfl

/-- D14: the split is over the first operand, in wire order, that its field cannot hold. -/
theorem encodeCommand_drawQr_error {x y : Int} {text : Text} {pixelSize : Int}
    (h : ¬(fitsU 2 x ∧ fitsU 2 y ∧ fitsU 1 pixelSize ∧ asciiText text)) :
    encodeCommand (.drawQr x y text pixelSize) = .error .encoding := by
  change encDrawQr x y text pixelSize = _
  rw [encDrawQr]
  by_cases hx : fitsU 2 x
  case neg => rw [encU_error 2 x hx]; rfl
  by_cases hy : fitsU 2 y
  case neg => rw [encU_ok 2 x hx, encU_error 2 y hy]; rfl
  by_cases hsize : fitsU 1 pixelSize
  case neg => rw [encU_ok 2 x hx, encU_ok 2 y hy, encU_error 1 pixelSize hsize]; rfl
  have htext : ¬asciiText text := fun ht => h ⟨hx, hy, hsize, ht⟩
  rw [encU_ok 2 x hx, encU_ok 2 y hy, encU_ok 1 pixelSize hsize, encText_error text htext]
  rfl

/-- Settles O18: an idle encoder loads the frame when all four operands fit their fields; otherwise the first
operand outside its field raises EncodingError, the one class R108 allows. -/
theorem drawQrFrame : Obligations.DrawQrFrame := by
  intro x y text pixelSize s hidle
  refine ⟨fun ⟨hx, hy, hsize, htext⟩ => ?loads, fun houtside => ?raises⟩
  case loads => exact exec_of_encode_ok hidle (encodeCommand_drawQr_ok hx hy hsize htext)
  case raises => exact exec_of_encode_error hidle (encodeCommand_drawQr_error houtside)

end Sys2Proof.Machine
end

section
/-! R115 and R116: both font queries ask for the greatest index that fits, of a predicate on the ten indices. What
that answer is, is said once for every predicate; the queries differ only in what "fits" is. -/

namespace Sys2Proof.Machine

open Sys2Proof

/-- The greatest of the ten font indices at which `fits` holds, or "no fit". -/
def greatestFit (fits : Fin 10 → Prop) [DecidablePred fits] : Option Nat :=
  (((List.finRange 10).filter (fun i => decide (fits i))).map (fun i => i.val)).max?

theorem greatestFit_eq_some_iff (fits : Fin 10 → Prop) [DecidablePred fits] (k : Nat) :
    greatestFit fits = some k ↔ ∃ i : Fin 10, i.val = k ∧ fits i ∧ ∀ j : Fin 10, i < j → ¬fits j := by
  rw [greatestFit, List.max?_eq_some_iff]
  simp only [List.mem_map, List.mem_filter, List.mem_finRange, true_and, decide_eq_true_eq]
  constructor
  · rintro ⟨⟨i, hfits, rfl⟩, hmax⟩
    exact ⟨i, rfl, hfits, fun j hlt hj => Nat.not_le_of_lt hlt (hmax j.val ⟨j, hj, rfl⟩)⟩
  · rintro ⟨i, rfl, hfits, habove⟩
    refine ⟨⟨i, hfits, rfl⟩, ?_⟩
    rintro _ ⟨j, hj, rfl⟩
    exact Nat.le_of_not_lt fun hlt => habove j hlt hj

theorem greatestFit_eq_none_iff (fits : Fin 10 → Prop) [DecidablePred fits] :
    greatestFit fits = none ↔ ∀ i, ¬fits i := by
  simp [greatestFit, List.max?_eq_none_iff, List.filter_eq_nil_iff]

/-- No index lies above 9, so it is the answer as soon as it fits. -/
theorem greatestFit_of_fits_last (fits : Fin 10 → Prop) [DecidablePred fits] (hlast : fits 9) :
    greatestFit fits = some 9 :=
  (greatestFit_eq_some_iff fits 9).mpr ⟨9, rfl, hlast, fun j hlt => absurd (Fin.le_last j) (not_le_of_gt hlt)⟩

theorem largestFontForHeight_eq (F : Fonts) (h : Int) :
    largestFontForHeight F h = greatestFit fun i => (F.height i : Int) ≤ h := rfl

/-- The model multiplies before the cast to the integers; here the cast comes first, as in R116. -/
theorem largestFontForWidth_eq (F : Fonts) (w : Int) (n : Nat) :
    largestFontForWidth F w n = greatestFit fun i => (F.width i : Int) * n ≤ w := by
  simp only [largestFontForWidth, greatestFit, Nat.cast_mul]

/-- R117: the first height is positive and the heights increase. -/
theorem height_pos_of_admissible {F : Fonts} (hF : F.Admissible) (i : Fin 10) : 0 < F.height i := by
  obtain ⟨hincreasing, -, hfirst, -⟩ := hF
  have hmono : StrictMono F.height := fun a b => hincreasing a b
  exact hfirst.trans_le (hmono.monotone (Fin.zero_le i))

/-- Settles O45: the three clauses are the characterisation of `greatestFit` for "the height fits"; under R117 every
height is above an `h` up to 0, and the last one fits an `h` from 64. -/
theorem largestFontForHeight_greatest : Obligations.LargestFontForHeight := by
  intro F h
  rw [largestFontForHeight_eq]
  refine ⟨greatestFit_eq_some_iff _, ?noFit, fun hF => ⟨fun hlow => ?low, fun hhigh => ?high⟩⟩
  case noFit => simp only [greatestFit_eq_none_iff, not_le]
  case low =>
    refine (greatestFit_eq_none_iff _).mpr fun i => ?_
    have hpos := height_pos_of_admissible hF i
    omega
  case high =>
    obtain ⟨-, -, -, hlast⟩ := hF
    exact greatestFit_of_fits_last _ (by omega)

/-- Settles O46: the clauses are the characterisation of `greatestFit` for "the width times `n` fits"; for `n = 0`
every product is 0, so either all indices fit, the last among them, or none does. -/
theorem largestFontForWidth_greatest : Obligations.LargestFontForWidth := by
  intro F w n
  rw [largestFontForWidth_eq]
  refine ⟨greatestFit_eq_some_iff _, ?noFit, ?zeroCopies⟩
  case noFit => simp only [greatestFit_eq_none_iff, not_le]
  case zeroCopies =>
    rintro rfl
    split
    case isTrue hw => exact greatestFit_of_fits_last _ (by simpa using hw)
    case isFalse hw => exact (greatestFit_eq_none_iff _).mpr fun i => by simpa using hw

end Sys2Proof.Machine
end

section
/-! R120 and R121: `recognize` is two cuts in a row, one at the first prefix and one at the first suffix after it.
Each cut is characterised once by induction on the buffer; the two statements about `recognize` compose them. -/

namespace Sys2Proof.Machine

open Sys2Proof

/-- A byte put in front of the first part of a cut, as both cuts do on the way to where they split. -/
theorem map_cons_fst_eq_some_iff (cut : Option (Bytes × Bytes)) (b a : Byte) (front back : Bytes) :
    cut.map (Prod.map (b :: ·) id) = some (a :: front, back) ↔
      b = a ∧ cut = some (front, back) := by
  cases cut <;> simp [Prod.ext_iff, and_assoc]

@[simp] theorem splitAtPrefix_cons_prefix (bs : Bytes) :
    splitAtPrefix (Config.prefixByte :: bs) = some ([], bs) := by
  simp [splitAtPrefix]

theorem splitAtPrefix_cons_of_ne {b : Byte} (hb : b ≠ Config.prefixByte) (bs : Bytes) :
    splitAtPrefix (b :: bs) = (splitAtPrefix bs).map (Prod.map (b :: ·) id) := by
  rw [splitAtPrefix, if_neg hb]
  cases splitAtPrefix bs <;> rfl

theorem splitAtPrefix_eq_some_iff (buf pre rest : Bytes) :
    splitAtPrefix buf = some (pre, rest) ↔ buf = pre ++ Config.prefixByte :: rest ∧ Config.prefixByte ∉ pre := by
  induction buf generalizing pre with
  | nil => simp [splitAtPrefix]
  | cons b bs ih =>
    by_cases hb : b = Config.prefixByte
    · subst hb
      cases pre with
      | nil => simp
      | cons a pre => simp +contextual
    · rw [splitAtPrefix_cons_of_ne hb]
      cases pre with
      | nil => simp [hb]
      | cons a pre =>
        rw [map_cons_fst_eq_some_iff, ih, List.cons_append, List.cons.injEq, List.mem_cons, not_or, and_assoc]
        exact ⟨fun ⟨hba, hbs, hmem⟩ => ⟨hba, hbs, hba ▸ Ne.symm hb, hmem⟩,
          fun ⟨hba, hbs, _, hmem⟩ => ⟨hba, hbs, hmem⟩⟩

theorem splitAtPrefix_eq_none_iff (buf : Bytes) : splitAtPrefix buf = none ↔ Config.prefixByte ∉ buf := by
  induction buf with
  | nil => simp [splitAtPrefix]
  | cons b bs ih =>
    by_cases hb : b = Config.prefixByte
    · simp [hb]
    · simp [splitAtPrefix_cons_of_ne hb, ih, Ne.symm hb]

theorem splitAtSuffix_cons_of_eq {b : Byte} {bs : Bytes} (hb : (b :: bs).take 4 = Config.suffix) :
    splitAtSuffix (b :: bs) = some ([], (b :: bs).drop 4) := by
  rw [splitAtSuffix, if_pos hb]

theorem splitAtSuffix_cons_of_ne {b : Byte} {bs : Bytes} (hb : (b :: bs).take 4 ≠ Config.suffix) :
    splitAtSuffix (b :: bs) = (splitAtSuffix bs).map (Prod.map (b :: ·) id) := by
  rw [splitAtSuffix, if_neg hb]
  cases splitAtSuffix bs <;> rfl

theorem suffixFreeBelow_cons (b : Byte) (bs : Bytes) (n : Nat) :
    (∀ k < n + 1, ((b :: bs).drop k).take 4 ≠ Config.suffix) ↔
      (b :: bs).take 4 ≠ Config.suffix ∧ ∀ k < n, (bs.drop k).take 4 ≠ Config.suffix :=
  Nat.forall_lt_succ_left

theorem suffixFree_cons (b : Byte) (bs : Bytes) :
    (∀ k, ((b :: bs).drop k).take 4 ≠ Config.suffix) ↔
      (b :: bs).take 4 ≠ Config.suffix ∧ ∀ k, (bs.drop k).take 4 ≠ Config.suffix :=
  Nat.and_forall_add_one.symm

theorem splitAtSuffix_eq_some_iff (bs body rem : Bytes) :
    splitAtSuffix bs = some (body, rem) ↔
      bs = body ++ Config.suffix ++ rem ∧ ∀ k < body.length, (bs.drop k).take 4 ≠ Config.suffix := by
  induction bs generalizing body with
  | nil => simp [splitAtSuffix, Config.suffix]
  | cons b bs ih =>
    by_cases hb : (b :: bs).take 4 = Config.suffix
    · rw [splitAtSuffix_cons_of_eq hb]
      cases body with
      | nil =>
        have hparts : b :: bs = Config.suffix ++ (b :: bs).drop 4 := by rw [← hb, List.take_append_drop]
        constructor
        · rintro ⟨⟩
          exact ⟨hparts, fun k hk => absurd hk (Nat.not_lt_zero k)⟩
        · rintro ⟨hbs, -⟩
          rw [List.append_cancel_left (hparts.symm.trans hbs)]
      | cons a body => exact iff_of_false (by simp) fun ⟨_, hbefore⟩ => hbefore 0 (Nat.succ_pos _) hb
    · rw [splitAtSuffix_cons_of_ne hb]
      cases body with
      | nil =>
        have hsplit : b :: bs ≠ Config.suffix ++ rem := fun h => hb (by rw [h]; rfl)
        simp [hsplit]
      | cons a body =>
        rw [map_cons_fst_eq_some_iff, ih, List.length_cons, suffixFreeBelow_cons, and_iff_right hb, List.cons_append,
          List.cons_append, List.cons.injEq, and_assoc]

theorem splitAtSuffix_eq_none_iff (bs : Bytes) :
    splitAtSuffix bs = none ↔ ∀ k, (bs.drop k).take 4 ≠ Config.suffix := by
  induction bs with
  | nil => simp [splitAtSuffix, Config.suffix]
  | cons b bs ih =>
    by_cases hb : (b :: bs).take 4 = Config.suffix
    · rw [splitAtSuffix_cons_of_eq hb]
      exact iff_of_false (Option.some_ne_none _) fun hnowhere => hnowhere 0 hb
    · rw [splitAtSuffix_cons_of_ne hb, Option.map_eq_none_iff, ih, suffixFree_cons, and_iff_right hb]

theorem recognize_eq_complete_iff (buf pre head body tail rem : Bytes) :
    recognize buf = .complete pre head body tail rem ↔
      head = [Config.prefixByte] ∧ tail = Config.suffix ∧
        ∃ rest, splitAtPrefix buf = some (pre, rest) ∧ splitAtSuffix rest = some (body, rem) := by
  constructor
  · intro h
    rw [recognize] at h
    split at h
    case h_1 => contradiction
    case h_2 pre' rest hpre =>
      split at h
      case h_1 => contradiction
      case h_2 body' rem' hsuf =>
        obtain ⟨rfl, rfl, rfl, rfl, rfl⟩ := Recognition.complete.inj h
        exact ⟨rfl, rfl, rest, hpre, hsuf⟩
  · rintro ⟨rfl, rfl, rest, hpre, hsuf⟩
    simp only [recognize, hpre, hsuf]

theorem recognize_eq_incomplete_iff (buf : Bytes) :
    recognize buf = .incomplete ↔
      splitAtPrefix buf = none ∨ ∃ pre rest, splitAtPrefix buf = some (pre, rest) ∧ splitAtSuffix rest = none := by
  rw [recognize]
  cases hpre : splitAtPrefix buf with
  | none => simp
  | some parts =>
    obtain ⟨pre, rest⟩ := parts
    cases hsuf : splitAtSuffix rest <;> simp [hsuf]

/-- Settles O41: `complete` is a cut at the first prefix and then one at the first suffix, and the characterisations
of the two cuts together say where the five parts lie in the buffer. -/
theorem recognizeComplete : Obligations.RecognizeComplete := by
  intro buf pre head body tail rem
  rw [recognize_eq_complete_iff]
  simp only [splitAtPrefix_eq_some_iff, splitAtSuffix_eq_some_iff]
  constructor
  · rintro ⟨rfl, rfl, rest, ⟨rfl, hpre⟩, rfl, hbody⟩
    exact ⟨rfl, rfl, by simp [Config.suffix], hpre, hbody⟩
  · rintro ⟨rfl, rfl, rfl, hpre, hbody⟩
    exact ⟨rfl, rfl, _, ⟨by simp [Config.prefixByte, Config.suffix], hpre⟩, rfl, hbody⟩

/-- Settles O42: the two disjuncts are the two cuts that can fail, the second on what follows the first prefix. -/
theorem recognizeIncomplete : Obligations.RecognizeIncomplete := by
  intro buf
  simp only [recognize_eq_incomplete_iff, splitAtPrefix_eq_none_iff, splitAtPrefix_eq_some_iff,
    splitAtSuffix_eq_none_iff, and_assoc]
  rfl

end Sys2Proof.Machine
end

section
/-! R125 to R129: the moves of DEC. Each is its rule in `Laws/Ops.lean`, read at the decoder state the statement
names; for `BODY` the test on the last four bytes is said as a split of the bytes taken. -/

namespace Sys2Proof.Machine

open Sys2Proof

/-- R127: the test looks at the last four bytes only. -/
theorem endsInSuffix_iff (bs : Bytes) : endsInSuffix bs = true ↔ ∃ body, bs = body ++ Config.suffix := by
  constructor
  · intro h
    simp only [endsInSuffix, Bool.and_eq_true, decide_eq_true_eq, beq_iff_eq] at h
    obtain ⟨-, hlast⟩ := h
    exact ⟨bs.take (bs.length - 4), by rw [← hlast, List.take_append_drop]⟩
  · rintro ⟨body, rfl⟩
    simp [endsInSuffix, Config.suffix]

theorem State.rxByte_of_hunt {s : State} {b : Byte} {rest : Bytes} (hstate : s.rxState = .hunt)
    (hrx : s.rx = b :: rest) :
    (b = Config.prefixByte ∧ s.rxByte = { s with rx := rest, rxState := .body }) ∨
    (b ≠ Config.prefixByte ∧ s.rxByte = { s with rx := rest, rxPre := s.rxPre ++ [b] }) := by
  simpa [hstate, hrx] using s.rxByte_cases

theorem State.rxByte_of_body {s : State} {b : Byte} {rest : Bytes} (hstate : s.rxState = .body)
    (hrx : s.rx = b :: rest) :
    (∃ body, s.rxBody ++ [b] = body ++ Config.suffix ∧ s.rxByte = { s with
      rx := rest, rxRes := .frame s.rxPre body, rxBody := [], rxPre := [], rxState := .idle }) ∨
    ((∀ body, s.rxBody ++ [b] ≠ body ++ Config.suffix) ∧
      s.rxByte = { s with rx := rest, rxBody := s.rxBody ++ [b] }) := by
  rcases s.rxByte_cases with ⟨hhunt, -⟩ | ⟨-, b', rest', hrx', hcases⟩ | ⟨hnone, -⟩
  · simp [hstate] at hhunt
  · obtain ⟨rfl, rfl⟩ := List.cons.inj (hrx.symm.trans hrx')
    rcases hcases with ⟨hends, hstep⟩ | ⟨hends, hstep⟩
    · obtain ⟨body, hsplit⟩ := (endsInSuffix_iff _).mp hends
      have hbody : (s.rxBody ++ [b]).take ((s.rxBody ++ [b]).length - 4) = body := by simp [hsplit, Config.suffix]
      exact .inl ⟨body, hsplit, hbody ▸ hstep⟩
    · have hnosplit := mt (endsInSuffix_iff (s.rxBody ++ [b])).mpr (Bool.eq_false_iff.mp hends)
      exact .inr ⟨not_exists.mp hnosplit, hstep⟩
  · simp [hstate, hrx] at hnone

/-- Settles O34: the two clauses are the two cases of `rx_arm`. -/
theorem armStep : Obligations.ArmStep := by
  intro s
  rcases s.rxArm_cases with ⟨hidle, harm⟩ | ⟨hbusy, harm⟩
  · exact ⟨fun _ => harm, fun hne => absurd hidle hne⟩
  · exact ⟨fun hidle => absurd hidle hbusy, fun _ => harm⟩

/-- Settles O36: the byte is removed in both cases of HUNT, and they are told apart by the prefix byte. -/
theorem huntByteStep : Obligations.HuntByteStep := by
  intro s b rest hstate hrx
  rcases State.rxByte_of_hunt hstate hrx with ⟨hprefix, hstep⟩ | ⟨hother, hstep⟩
  · exact ⟨fun _ => congrArg Host.Outcome.next hstep, fun hne => absurd hprefix hne⟩
  · exact ⟨fun heq => absurd heq hother, fun _ => congrArg Host.Outcome.next hstep⟩

/-- Settles O37: a split of the bytes taken before the suffix is unique, so the body reported is the one named. -/
theorem bodyByteStep : Obligations.BodyByteStep := by
  intro s b rest hstate hrx
  rcases State.rxByte_of_body hstate hrx with ⟨body, hsplit, hstep⟩ | ⟨hnosplit, hstep⟩
  · refine ⟨fun body' hsplit' => ?_, fun hnosplit => absurd hsplit (hnosplit body)⟩
    obtain rfl : body = body' := List.append_cancel_right (hsplit.symm.trans hsplit')
    exact congrArg Host.Outcome.next hstep
  · exact ⟨fun body hsplit => absurd hsplit (hnosplit body), fun _ => congrArg Host.Outcome.next hstep⟩

/-- Settles O39: an armed read is any state but IDLE, and these are the two cases of `rx_timeout`. -/
theorem timeoutStep : Obligations.TimeoutStep := by
  intro s
  rcases s.rxTimeout_cases with ⟨harmed, hstep⟩ | ⟨hidle, hstep⟩
  · exact ⟨fun _ => congrArg Host.Outcome.next hstep, fun hidle => absurd hidle harmed⟩
  · refine ⟨fun harmed => ?_, fun _ => congrArg Host.Outcome.next hstep⟩
    simp [hidle] at harmed

end Sys2Proof.Machine
end


section
/-! R143: the dequeue of CommandQueue, read off `Queue.take_cases` in `Laws/Ops.lean`. -/

namespace Sys2Proof.Machine

open Sys2Proof

/-- Settles O54: the four cases of `take()` exclude each other by the flag, the transmit items and the read count, and
the clauses name them in order; every case but the last answers an item, so only the last blocks. -/
theorem queueTake : Obligations.QueueTake := by
  intro q
  rcases q.take_cases with ⟨hterm, htake⟩ | ⟨hterm, b, rest, htx, htake⟩ | ⟨hterm, htx, hrd, htake⟩ |
    ⟨hterm, htx, hrd, htake⟩
  · simp [hterm, htake]
  · refine ⟨by simp [hterm], fun b' rest' _ htx' => ?_, by simp [htx], by simp [htx, htake]⟩
    obtain ⟨rfl, rfl⟩ := List.cons.inj (htx.symm.trans htx')
    exact htake
  · exact ⟨by simp [hterm], by simp [htx], fun _ _ _ => htake, by simp [htake, hrd.ne']⟩
  · exact ⟨by simp [hterm], by simp [htx], by simp [hrd], by simp [hterm, htx, hrd, htake]⟩

end Sys2Proof.Machine
end

section
/-! R33, R49: reading big-endian bytes and writing them are inverse, in both directions; for the signed fields the
two's-complement pattern comes in between. -/

namespace Sys2Proof.Machine

open Sys2Proof

theorem beNat_injective {bs cs : Bytes} (hlen : bs.length = cs.length) (h : beNat bs = beNat cs) : bs = cs := by
  induction bs generalizing cs with
  | nil => exact (List.length_eq_zero_iff.mp hlen.symm).symm
  | cons b bs ih =>
    cases cs with
    | nil => simp at hlen
    | cons c cs =>
      have hlen' : bs.length = cs.length := by simpa using hlen
      have hbs := beNat_lt bs
      have hcs := beNat_lt cs
      rw [two_pow_eight_mul] at hbs hcs
      rw [← hlen'] at hcs
      rw [beNat_cons, beNat_cons, ← hlen', Nat.mul_comm, Nat.mul_comm c.toNat] at h
      have hhead : b.toNat = c.toNat := by
        have hdiv := congrArg (· / 256 ^ bs.length) h
        have hpos : 0 < 256 ^ bs.length := Nat.zero_lt_of_lt hbs
        simp only [Nat.mul_add_div hpos, Nat.div_eq_of_lt hbs, Nat.div_eq_of_lt hcs, Nat.add_zero] at hdiv
        exact hdiv
      rw [hhead] at h
      rw [BitVec.eq_of_toNat_eq hhead, ih hlen' (Nat.add_left_cancel h)]

theorem beNat_beBytes_of_lt {n v : Nat} (h : v < 2 ^ (8 * n)) : beNat (beBytes n v) = v := by
  rw [beNat_beBytes, Nat.mod_eq_of_lt h]

/-- R33: a byte sequence is the image of the number it reads as. -/
theorem beBytes_beNat {bs : Bytes} {n : Nat} (hlen : bs.length = n) : beBytes n (beNat bs) = bs := by
  subst hlen
  exact beNat_injective (beBytes_length _ _) (beNat_beBytes_of_lt (beNat_lt bs))

/-- R8: the signed reading of the two's-complement pattern is the value. -/
theorem signExtend_twosComplement {bits : Nat} (hbits : 0 < bits) {v : Int}
    (h : -2 ^ (bits - 1) ≤ v ∧ v < 2 ^ (bits - 1)) : signExtend bits (twosComplement bits v).toNat = v := by
  obtain ⟨hlow, hhigh⟩ := h
  have hhalf : (2 : Int) ^ bits = 2 * 2 ^ (bits - 1) := by
    rw [← pow_succ', Nat.sub_add_cancel hbits]
  have hcast : ((2 ^ (bits - 1) : Nat) : Int) = 2 ^ (bits - 1) := by push_cast; rfl
  rw [signExtend, twosComplement, hhalf]
  generalize (2 : Int) ^ (bits - 1) = p at *
  rcases lt_or_ge v 0 with hneg | hnonneg
  · have hmod : v % (2 * p) = v + 2 * p := by
      rw [← Int.add_emod_right, Int.emod_eq_of_lt (by omega) (by omega)]
    rw [hmod, if_neg (by omega)]
    omega
  · rw [Int.emod_eq_of_lt hnonneg (by omega), if_pos (by omega)]
    omega

/-- R8: the pattern of a signed reading is the pattern that was read. -/
theorem twosComplement_signExtend {bits n : Nat} (h : n < 2 ^ bits) : (signExtend bits n % 2 ^ bits).toNat = n := by
  have hcast : (n : Int) < 2 ^ bits := by exact_mod_cast h
  rw [signExtend]
  split
  · rw [Int.emod_eq_of_lt (by omega) hcast, Int.toNat_natCast]
  · rw [Int.sub_emod_right, Int.emod_eq_of_lt (by omega) hcast, Int.toNat_natCast]

theorem signExtend_bounds {bits n : Nat} (hbits : 0 < bits) (h : n < 2 ^ bits) :
    -2 ^ (bits - 1) ≤ signExtend bits n ∧ signExtend bits n < 2 ^ (bits - 1) := by
  have hhalf : 2 ^ bits = 2 * 2 ^ (bits - 1) := by rw [← pow_succ', Nat.sub_add_cancel hbits]
  have hhalfInt : (2 : Int) ^ bits = 2 * 2 ^ (bits - 1) := by rw [← pow_succ', Nat.sub_add_cancel hbits]
  have hcast : ((2 ^ (bits - 1) : Nat) : Int) = 2 ^ (bits - 1) := by push_cast; rfl
  rw [signExtend]
  split <;> omega

/-- Settles O21: the unsigned image reads back by `beNat_beBytes`, and the signed one is the unsigned image of the
two's-complement pattern. -/
theorem scalarEncoders : Obligations.ScalarEncoders := by
  intro n hn v
  have hpos : 0 < 8 * n := by
    simp only [List.mem_cons, List.not_mem_nil, or_false] at hn
    omega
  refine ⟨fun hfits => ?unsigned, encU_error n v, fun hfits => ?signed, fun hout => ?signedError⟩
  case unsigned =>
    have hlt : v.toNat < 2 ^ (8 * n) := by
      have := hfits.2
      zify
      omega
    refine ⟨_, encU_ok n v hfits, beBytes_length _ _, ?_⟩
    rw [beNat_beBytes_of_lt hlt]
    exact Int.toNat_of_nonneg hfits.1
  case signed =>
    have hmod : 0 ≤ twosComplement (8 * n) v ∧ twosComplement (8 * n) v < 2 ^ (8 * n) :=
      ⟨Int.emod_nonneg _ (by positivity), Int.emod_lt_of_pos _ (by positivity)⟩
    have hlt : (twosComplement (8 * n) v).toNat < 2 ^ (8 * n) := by
      have := hmod.2
      zify
      omega
    refine ⟨_, (if_pos hfits).trans (encU_ok n _ hmod), beBytes_length _ _, ?_⟩
    rw [beNat_beBytes_of_lt hlt, signExtend_twosComplement hpos hfits]
  case signedError => exact if_neg hout

end Sys2Proof.Machine
end

section
/-! R54 and R55: a channel that has been quantized is one of the fractions `k / max`; a colour of three such fractions
is what a colour word stands for. -/

namespace Sys2Proof.Machine

open Sys2Proof

theorem floor_half_nonneg {max : Nat} {c : NUM} (h : 0 ≤ c) : 0 ≤ ⌊(max : NUM) * c + 1 / 2⌋ :=
  Int.floor_nonneg.mpr (by positivity)

/-- R54: half a step, which is the distance that rounding moves a number. -/
theorem abs_floor_half_sub_le (q : NUM) : |(⌊q + 1 / 2⌋ : NUM) - q| ≤ 1 / 2 := by
  have hle := Int.floor_le (q + 1 / 2)
  have hlt := Int.lt_floor_add_one (q + 1 / 2)
  rw [abs_le]
  constructor <;> linarith

theorem quant_within_half_step {max : Nat} (hmax : 0 < max) {c : NUM} (h : legalChannel c) :
    |((⌊(max : NUM) * c + 1 / 2⌋.toNat : Nat) : NUM) / max - c| ≤ 1 / (2 * max) := by
  have hm : (0 : NUM) < max := by exact_mod_cast hmax
  have hcast : ((⌊(max : NUM) * c + 1 / 2⌋.toNat : Nat) : NUM) = (⌊(max : NUM) * c + 1 / 2⌋ : NUM) := by
    exact_mod_cast Int.toNat_of_nonneg (floor_half_nonneg h.1)
  have hscaled := abs_floor_half_sub_le ((max : NUM) * c)
  rw [hcast, show (⌊(max : NUM) * c + 1 / 2⌋ : NUM) / max - c =
    ((⌊(max : NUM) * c + 1 / 2⌋ : NUM) - max * c) / max by field_simp, abs_div, abs_of_pos hm, div_le_iff₀ hm]
  calc _ ≤ (1 / 2 : NUM) := hscaled
    _ = 1 / (2 * max) * max := by field_simp

/-- R54: where the scaled channel plus 1/2 is an integer, the quantizer answers it. -/
theorem quant_eq_of_scaled_eq {max k : Nat} {c : NUM} (h : legalChannel c) (hk : (max : NUM) * c + 1 / 2 = k) :
    quant max c = .ok k := by
  rw [quant_ok max c h, hk, Int.floor_natCast, Int.toNat_natCast]

theorem quant_eq_ok_iff (max : Nat) (c : NUM) (k : Nat) :
    quant max c = .ok k ↔ legalChannel c ∧ ⌊(max : NUM) * c + 1 / 2⌋.toNat = k := by
  by_cases h : legalChannel c
  · rw [quant_ok max c h, Except.ok.injEq, and_iff_right h]
  · simp [quant_error max c h, h]

theorem quant_mono {max : Nat} {c d : NUM} {p q : Nat} (hcd : c ≤ d) (hp : quant max c = .ok p)
    (hq : quant max d = .ok q) : p ≤ q := by
  obtain ⟨-, rfl⟩ := (quant_eq_ok_iff max c p).mp hp
  obtain ⟨-, rfl⟩ := (quant_eq_ok_iff max d q).mp hq
  have hscaled : (max : NUM) * c ≤ max * d := mul_le_mul_of_nonneg_left hcd (Nat.cast_nonneg max)
  exact Int.toNat_le_toNat (Int.floor_mono (by linarith))

/-- R54: a grid point is answered as its index; both ends of [0, 1] are such points. -/
theorem floor_half_natCast (k : Nat) : ⌊(k : NUM) + 1 / 2⌋ = k := by
  rw [Int.floor_eq_iff]
  constructor <;> push_cast <;> linarith

/-- Settles O22: the floor form of `quant_ok` gives each consequence: its bound, the half step, monotony, and the
values at the ends and at a tie. -/
theorem channelQuantizer : Obligations.ChannelQuantizer := by
  intro max hmem
  have hmax : 0 < max := by
    simp only [List.mem_cons, List.not_mem_nil, or_false] at hmem
    omega
  refine ⟨fun c hc => ⟨_, quant_ok max c hc, ?floor, floor_half_toNat_le max c hc, quant_within_half_step hmax hc⟩,
    fun c hc => quant_error max c (not_legalChannel hc), ?zero, ?one, fun c d p q => quant_mono,
    fun c k => quant_eq_of_scaled_eq⟩
  case floor => exact Int.toNat_of_nonneg (floor_half_nonneg hc.1)
  case zero => exact (quant_eq_ok_iff max 0 0).mpr ⟨⟨le_rfl, zero_le_one⟩, by norm_num⟩
  case one =>
    refine (quant_eq_ok_iff max 1 max).mpr ⟨⟨zero_le_one, le_rfl⟩, ?_⟩
    rw [mul_one, floor_half_natCast, Int.toNat_natCast]

/-- R54: the channel that the field value `k` stands for is in [0, 1]. -/
theorem legalChannel_readChannel {max k : Nat} (hmax : 0 < max) (hk : k ≤ max) : legalChannel (readChannel max k) := by
  have hm : (0 : NUM) < max := by exact_mod_cast hmax
  have hle : (k : NUM) ≤ max := by exact_mod_cast hk
  exact ⟨by rw [readChannel]; positivity, by rw [readChannel, div_le_one hm]; exact hle⟩

theorem mul_readChannel {max : Nat} (hmax : 0 < max) (k : Nat) : (max : NUM) * readChannel max k = k := by
  have hm : (max : NUM) ≠ 0 := by exact_mod_cast hmax.ne'
  rw [readChannel, mul_div_cancel₀ _ hm]

theorem gridIndex_readChannel {max : Nat} (hmax : 0 < max) (k : Nat) : gridIndex max (readChannel max k) = k := by
  rw [gridIndex, mul_readChannel hmax, Rat.num_natCast, Int.toNat_natCast]

theorem floor_half_readChannel {max : Nat} (hmax : 0 < max) (k : Nat) :
    ⌊(max : NUM) * readChannel max k + 1 / 2⌋.toNat = k := by
  rw [mul_readChannel hmax, floor_half_natCast, Int.toNat_natCast]

/-- The grid of a channel is exactly what its field values stand for. -/
theorem onGrid_iff {max : Nat} (hmax : 0 < max) (c : NUM) :
    WellFormed.onGrid max c = true ↔ ∃ k ≤ max, c = readChannel max k := by
  constructor
  · intro h
    simp only [WellFormed.onGrid, Bool.and_eq_true, decide_eq_true_eq] at h
    obtain ⟨hc, hden⟩ := h
    have hm : (max : NUM) ≠ 0 := by exact_mod_cast hmax.ne'
    have hnum : (((max : NUM) * c).num : NUM) = max * c := (Rat.den_eq_one_iff _).mp hden
    have hpos : 0 ≤ ((max : NUM) * c).num := Rat.num_nonneg.mpr (mul_nonneg (Nat.cast_nonneg _) hc.1)
    obtain ⟨k, hk⟩ := Int.eq_ofNat_of_zero_le hpos
    have hscaled : (max : NUM) * c = k := by rw [← hnum, hk, Int.cast_natCast]
    have hle : (k : NUM) ≤ max := by
      rw [← hscaled]
      exact mul_le_of_le_one_right (Nat.cast_nonneg _) hc.2
    exact ⟨k, by exact_mod_cast hle, by rw [readChannel, ← hscaled, mul_div_cancel_left₀ _ hm]⟩
  · rintro ⟨k, hk, rfl⟩
    simp [WellFormed.onGrid, legalChannel_readChannel hmax hk, mul_readChannel hmax]

/-- The colour that three field values of R55 stand for. -/
def gridColor (r g b : Nat) : Color := ⟨readChannel 31 r, readChannel 63 g, readChannel 31 b⟩

theorem wellFormedColor_iff (c : Color) :
    WellFormed.color c = true ↔ ∃ r ≤ 31, ∃ g ≤ 63, ∃ b ≤ 31, c = gridColor r g b := by
  simp only [WellFormed.color, Bool.and_eq_true, onGrid_iff (max := 31) (by decide), onGrid_iff (max := 63) (by decide)]
  constructor
  · rintro ⟨⟨⟨r, hr, hcr⟩, g, hg, hcg⟩, b, hb, hcb⟩
    exact ⟨r, hr, g, hg, b, hb, by rw [gridColor, ← hcr, ← hcg, ← hcb]⟩
  · rintro ⟨r, hr, g, hg, b, hb, rfl⟩
    exact ⟨⟨⟨r, hr, rfl⟩, g, hg, rfl⟩, b, hb, rfl⟩

theorem putColor_gridColor (r g b : Nat) : putColor (gridColor r g b) = beBytes 2 (r * 2 ^ 11 + g * 2 ^ 5 + b) := by
  simp only [putColor, gridColor, gridIndex_readChannel (max := 31) (by decide),
    gridIndex_readChannel (max := 63) (by decide)]

/-- R55: the colour of a word is that of its three bit fields. -/
theorem readColor_eq (hi lo : Byte) : readColor hi lo =
    gridColor (beNat [hi, lo] / 2 ^ 11 % 2 ^ 5) (beNat [hi, lo] / 2 ^ 5 % 2 ^ 6) (beNat [hi, lo] % 2 ^ 5) := rfl

theorem wellFormedColor_readColor (hi lo : Byte) : WellFormed.color (readColor hi lo) = true :=
  (wellFormedColor_iff _).mpr ⟨_, by omega, _, by omega, _, by omega, readColor_eq hi lo⟩

theorem putColor_readColor (hi lo : Byte) : putColor (readColor hi lo) = [hi, lo] := by
  have hlt : beNat [hi, lo] < 2 ^ 16 := beNat_lt [hi, lo]
  have hsum : beNat [hi, lo] / 2 ^ 11 % 2 ^ 5 * 2 ^ 11 + beNat [hi, lo] / 2 ^ 5 % 2 ^ 6 * 2 ^ 5 +
      beNat [hi, lo] % 2 ^ 5 = beNat [hi, lo] := by omega
  rw [readColor_eq, putColor_gridColor, hsum, beBytes_beNat (n := 2) rfl]

/-- R55: the bit fields of a colour word do not overlap. -/
theorem readColor_colorWord {r g b : Nat} (hr : r ≤ 31) (hg : g ≤ 63) (hb : b ≤ 31) {hi lo : Byte}
    (h : beBytes 2 (r * 2 ^ 11 + g * 2 ^ 5 + b) = [hi, lo]) : readColor hi lo = gridColor r g b := by
  have hword : beNat [hi, lo] = r * 2 ^ 11 + g * 2 ^ 5 + b := by
    rw [← h, beNat_beBytes_of_lt (by omega)]
  rw [readColor_eq, hword]
  congr 1 <;> omega

/-- A two-byte field has two bytes. -/
theorem exists_beBytes_two (v : Nat) : ∃ hi lo, beBytes 2 v = [hi, lo] := ⟨_, _, rfl⟩

theorem readColor_putColor {c : Color} (h : WellFormed.color c = true) :
    ∃ hi lo, putColor c = [hi, lo] ∧ readColor hi lo = c := by
  obtain ⟨r, hr, g, hg, b, hb, rfl⟩ := (wellFormedColor_iff c).mp h
  obtain ⟨hi, lo, hbytes⟩ := exists_beBytes_two (r * 2 ^ 11 + g * 2 ^ 5 + b)
  exact ⟨hi, lo, (putColor_gridColor r g b).trans hbytes, readColor_colorWord hr hg hb hbytes⟩

/-- Settles O23: a colour that is encoded is legal, so its three indices are within their fields, and the word is
read back field by field. -/
theorem colourWordFields : Obligations.ColourWordFields := by
  intro c bs henc
  by_cases h : legalColor c
  case neg =>
    rw [encColor_error c h] at henc
    contradiction
  obtain rfl : beBytes 2 (colorWord c) = bs := by simpa [encColor_ok c h] using henc
  have hr := floor_half_toNat_le 31 c.r h.1
  have hg := floor_half_toNat_le 63 c.g h.2.1
  have hb := floor_half_toNat_le 31 c.b h.2.2
  have hword : beNat (beBytes 2 (colorWord c)) = ⌊(31 : Nat) * c.r + 1 / 2⌋.toNat * 2 ^ 11 +
      ⌊(63 : Nat) * c.g + 1 / 2⌋.toNat * 2 ^ 5 + ⌊(31 : Nat) * c.b + 1 / 2⌋.toNat := by
    rw [beNat_beBytes_of_lt (colorWord_lt c h)]
    simp only [colorWord, Nat.cast_ofNat]
  simp only [quant_eq_ok_iff, hword]
  exact ⟨beBytes_length _ _, ⟨h.1, by omega⟩, ⟨h.2.1, by omega⟩, h.2.2, by omega⟩

end Sys2Proof.Machine
end

section
/-! R58: text. A 7-bit-clean text and its bytes determine each other, and no byte of it opens the suffix. -/

namespace Sys2Proof.Machine

open Sys2Proof

theorem toNat_ofNat_of_ascii {ch : Nat} (h : ch ≤ 127) : (BitVec.ofNat 8 ch).toNat = ch := by
  rw [BitVec.toNat_ofNat, Nat.mod_eq_of_lt (by omega)]

theorem map_toNat_putText {t : Text} (h : asciiText t) : (putText t).map BitVec.toNat = t := by
  rw [putText, List.map_map]
  exact (List.map_congr_left fun ch hch => toNat_ofNat_of_ascii (h ch hch)).trans (List.map_id' t)

/-- The suffix opens with a byte that has bit 7 set. -/
theorem suffix_not_in_ascii {bs : Bytes} (h : ∀ b ∈ bs, b.toNat ≤ 127) (k : Nat) :
    (bs.drop k).take 4 ≠ Config.suffix := by
  intro heq
  have hmem : (0xCC : Byte) ∈ (bs.drop k).take 4 := by simp [heq, Config.suffix]
  exact absurd (h _ (List.mem_of_mem_drop (List.mem_of_mem_take hmem))) (by decide)

/-- Settles O26: the two outcomes of `enc_text`; the bytes of a 7-bit-clean text are its codes, all below the byte
that opens the suffix. -/
theorem textEncoder : Obligations.TextEncoder := by
  intro t
  refine ⟨fun h => ⟨_, encText_ok t h, map_toNat_putText h, suffix_not_in_ascii fun b hb => ?_⟩, encText_error t⟩
  obtain ⟨ch, hch, rfl⟩ := List.mem_map.mp hb
  rw [toNat_ofNat_of_ascii (h ch hch)]
  exact h ch hch

theorem wellFormedText_iff (t : Text) : WellFormed.text t = true ↔ asciiText t := by
  simp [WellFormed.text]

theorem readText_putText {t : Text} (h : WellFormed.text t = true) : readText (putText t) = .ok t := by
  rw [wellFormedText_iff] at h
  induction t with
  | nil => rfl
  | cons ch t ih =>
    obtain ⟨hch, ht⟩ := List.forall_mem_cons.mp h
    have hrest : readText (List.map (fun ch => BitVec.ofNat 8 ch) t) = .ok t := ih ht
    simp only [putText, List.map_cons, readText, toNat_ofNat_of_ascii hch, if_pos hch, hrest, bind, Except.bind]

theorem putText_of_readText {bs : Bytes} {t : Text} (h : readText bs = .ok t) :
    WellFormed.text t = true ∧ putText t = bs := by
  induction bs generalizing t with
  | nil => obtain rfl : [] = t := by simpa [readText] using h
           exact ⟨rfl, rfl⟩
  | cons b bs ih =>
    by_cases hb : b.toNat ≤ 127
    case neg => simp [readText, hb] at h
    cases hrest : readText bs with
    | error e => simp [readText, hb, hrest, bind, Except.bind] at h
    | ok t' =>
      obtain rfl : b.toNat :: t' = t := by simpa [readText, hb, hrest, bind, Except.bind] using h
      obtain ⟨hwf, hput⟩ := ih hrest
      refine ⟨by simpa [WellFormed.text, hb] using hwf, ?_⟩
      rw [← hput, putText, putText, List.map_cons, BitVec.ofNat_toNat, BitVec.setWidth_eq]

end Sys2Proof.Machine
end

section
/-! R60 and R61: the fields of a payload, each read back from the bytes it was written as, and each written back to the
bytes it was read from. -/

namespace Sys2Proof.Machine

open Sys2Proof

theorem exists_byte {n : Nat} (h : n < 256) : ∃ b : Byte, beBytes 1 n = [b] ∧ b.toNat = n :=
  ⟨BitVec.ofNat 8 n, by simp [beBytes], by rw [BitVec.toNat_ofNat, Nat.mod_eq_of_lt h]⟩

@[simp] theorem beBytes_one_toNat (b : Byte) : beBytes 1 b.toNat = [b] := by
  simp [beBytes]

theorem exists_byte_of_fits {v : Int} (h : WellFormed.fits 1 v = true) :
    ∃ b : Byte, beBytes 1 v.toNat = [b] ∧ (b.toNat : Int) = v := by
  simp only [WellFormed.fits, decide_eq_true_eq] at h
  obtain ⟨b, hbytes, hb⟩ := exists_byte (n := v.toNat) (by omega)
  exact ⟨b, hbytes, by omega⟩

theorem fits_toNat (b : Byte) : WellFormed.fits 1 b.toNat = true := by
  simp only [WellFormed.fits, decide_eq_true_eq]
  omega

theorem exists_word_of_fits {v : Int} (h : WellFormed.fits 2 v = true) :
    ∃ hi lo, beBytes 2 v.toNat = [hi, lo] ∧ readWord hi lo = v := by
  simp only [WellFormed.fits, decide_eq_true_eq] at h
  obtain ⟨hi, lo, hbytes⟩ := exists_beBytes_two v.toNat
  refine ⟨hi, lo, hbytes, ?_⟩
  rw [readWord, ← hbytes, beNat_beBytes_of_lt (by omega)]
  omega

@[simp] theorem fits_readWord (hi lo : Byte) : WellFormed.fits 2 (readWord hi lo) = true := by
  have hlt : beNat [hi, lo] < 2 ^ 16 := beNat_lt [hi, lo]
  exact decide_eq_true ⟨Int.natCast_nonneg _, by rw [readWord]; exact_mod_cast hlt⟩

@[simp] theorem beBytes_readWord (hi lo : Byte) : beBytes 2 (readWord hi lo).toNat = [hi, lo] := by
  rw [readWord, Int.toNat_natCast, beBytes_beNat (n := 2) rfl]

theorem readBackground_putBackground {bg : Option Color} (h : WellFormed.background bg = true) :
    ∃ hi lo, putBackground bg = [hi, lo] ∧ readBackground bg.isSome hi lo = .ok bg := by
  cases bg with
  | none => exact ⟨0, 0, rfl, rfl⟩
  | some c =>
    obtain ⟨hi, lo, hput, hread⟩ := readColor_putColor h
    exact ⟨hi, lo, hput, by simp [readBackground, hread]⟩

/-- R59: a background that is read is the one whose bytes they are, and the draw-background bit says whether there is
one. -/
theorem putBackground_of_readBackground {drawBg : Bool} {hi lo : Byte} {bg : Option Color}
    (h : readBackground drawBg hi lo = .ok bg) :
    WellFormed.background bg = true ∧ putBackground bg = [hi, lo] ∧ bg.isSome = drawBg := by
  rw [readBackground] at h
  split at h
  case isTrue hbg =>
    obtain rfl := Except.ok.inj h
    exact ⟨wellFormedColor_readColor hi lo, putColor_readColor hi lo, hbg.symm⟩
  case isFalse hbg =>
    split at h
    case isTrue hzero =>
      obtain ⟨rfl, rfl⟩ := hzero
      obtain rfl := Except.ok.inj h
      exact ⟨rfl, rfl, (Bool.eq_false_iff.mpr hbg).symm⟩
    case isFalse => contradiction

theorem testBit_eq_iff (n k : Nat) (x : Bool) : n.testBit k = x ↔ n / 2 ^ k % 2 = x.toNat := by
  rw [Nat.testBit_eq_decide_div_mod_eq]
  cases x with
  | true => simp
  | false => simp

theorem getLsbD_eq_iff (b : Byte) (k : Nat) (x : Bool) : b.getLsbD k = x ↔ b.toNat / 2 ^ k % 2 = x.toNat :=
  testBit_eq_iff b.toNat k x

theorem toNat_getLsbD (b : Byte) (k : Nat) : (b.getLsbD k).toNat = b.toNat / 2 ^ k % 2 :=
  ((getLsbD_eq_iff b k _).mp rfl).symm

theorem toNat_not (x : Bool) : (!x).toNat = 1 - x.toNat := by
  cases x <;> rfl

/-- The weight of a flag that is set. -/
theorem weight_of_set (x : Bool) (w : Nat) : (if x then w else 0) = w * x.toNat := by
  cases x with
  | true => simp
  | false => simp

/-- The weight of a flag that is negated on the wire (D10). -/
theorem weight_of_clear (x : Bool) (w : Nat) : (if x then 0 else w) = w * (1 - x.toNat) := by
  cases x with
  | true => simp
  | false => simp

/-- R101: the operands are the bit fields of the draw-string flags byte. -/
theorem stringFlags_fields {fl : Byte} {fixedWidth drawBg : Bool} {font : Nat} (hfont : font ≤ 9)
    (h : fl.toNat = (if fixedWidth then 0 else 128) + (if drawBg then 64 else 0) + font) :
    fl.toNat / 2 ^ 4 % 2 ^ 2 = 0 ∧ fl.toNat % 2 ^ 4 = font ∧ fl.getLsbD 6 = drawBg ∧ (!fl.getLsbD 7) = fixedWidth := by
  have hfw := fixedWidth.toNat_le
  have hbg := drawBg.toNat_le
  rw [weight_of_clear, weight_of_set] at h
  rw [Bool.not_eq_eq_eq_not, getLsbD_eq_iff, getLsbD_eq_iff, toNat_not]
  omega

/-- R101: the draw-string flags byte is the sum of its bit fields. -/
theorem stringFlags_sum {fl : Byte} (hreserved : fl.toNat / 2 ^ 4 % 2 ^ 2 = 0) :
    (if (!fl.getLsbD 7) then 0 else 128) + (if fl.getLsbD 6 then 64 else 0) + fl.toNat % 2 ^ 4 = fl.toNat := by
  have hlt := fl.isLt
  rw [weight_of_clear, weight_of_set, toNat_not, toNat_getLsbD, toNat_getLsbD]
  omega

/-- R107: the operands are the bit fields of the draw-number flags byte. -/
theorem numberFlags_fields {fl : Byte} {drawBg signed leftAdjust zeroPad : Bool} {font : Nat} (hfont : font ≤ 9)
    (h : fl.toNat = (if drawBg then 128 else 0) + (if signed then 64 else 0) + (if leftAdjust then 0 else 32) +
      (if zeroPad then 16 else 0) + font) :
    fl.toNat % 2 ^ 4 = font ∧ fl.getLsbD 7 = drawBg ∧ fl.getLsbD 6 = signed ∧ (!fl.getLsbD 5) = leftAdjust ∧
      fl.getLsbD 4 = zeroPad := by
  have hbg := drawBg.toNat_le
  have hsigned := signed.toNat_le
  have hleft := leftAdjust.toNat_le
  have hpad := zeroPad.toNat_le
  rw [weight_of_set, weight_of_set, weight_of_clear, weight_of_set] at h
  rw [Bool.not_eq_eq_eq_not]
  simp only [getLsbD_eq_iff, toNat_not]
  omega

/-- R107: the draw-number flags byte is the sum of its bit fields. -/
theorem numberFlags_sum (fl : Byte) :
    (if fl.getLsbD 7 then 128 else 0) + (if fl.getLsbD 6 then 64 else 0) + (if (!fl.getLsbD 5) then 0 else 32) +
      (if fl.getLsbD 4 then 16 else 0) + fl.toNat % 2 ^ 4 = fl.toNat := by
  have hlt := fl.isLt
  simp only [weight_of_set, weight_of_clear, toNat_not, toNat_getLsbD]
  omega

/-- Settles O19: the byte is the sum of the weights of its fields, so each field is read off by division. -/
theorem stringFlagsBits : Obligations.StringFlagsBits := by
  intro fixedWidth drawBg font hfont
  have hfw := fixedWidth.toNat_le
  have hbg := drawBg.toNat_le
  rw [stringFlags_eq _ _ _ hfont, weight_of_clear, weight_of_set]
  simp only [testBit_eq_iff, toNat_not]
  omega

/-- Settles O20: as for the draw-string flags, with five fields. -/
theorem numberFlagsBits : Obligations.NumberFlagsBits := by
  intro drawBg signed leftAdjust zeroPad font hfont
  have hbg := drawBg.toNat_le
  have hsigned := signed.toNat_le
  have hleft := leftAdjust.toNat_le
  have hpad := zeroPad.toNat_le
  rw [numberFlags_eq _ _ _ _ _ hfont, weight_of_set, weight_of_set, weight_of_clear, weight_of_set]
  simp only [testBit_eq_iff, toNat_not]
  omega

theorem pow10_ne_zero (d : Int) : pow10 d ≠ 0 := by
  cases d with
  | ofNat n => simp [pow10]
  | negSucc n => simp [pow10]

/-- R104: the number that the value field's pattern `n` stands for. -/
def readValue (signed : Bool) (n : Nat) : Int := if signed = true then signExtend 32 n else n

/-- R104: the integers that the value field can hold. -/
def valueFits (signed : Bool) (v : Int) : Prop :=
  if signed = true then -(2 ^ 31) ≤ v ∧ v < 2 ^ 31 else 0 ≤ v ∧ v < 2 ^ 32

theorem valueFits_readValue (signed : Bool) {n : Nat} (h : n < 2 ^ 32) : valueFits signed (readValue signed n) := by
  cases signed with
  | true => exact signExtend_bounds (bits := 32) (by decide) h
  | false => exact ⟨Int.natCast_nonneg n, Int.ofNat_lt.mpr h⟩

theorem readValue_mod (signed : Bool) {n : Nat} (h : n < 2 ^ 32) : (readValue signed n % 2 ^ 32).toNat = n := by
  cases signed with
  | true => exact twosComplement_signExtend h
  | false =>
    change ((n : Int) % 2 ^ 32).toNat = n
    omega

theorem exists_beBytes_four (v : Nat) : ∃ b3 b2 b1 b0, beBytes 4 v = [b3, b2, b1, b0] := ⟨_, _, _, _, rfl⟩

theorem exists_value_of_fits {signed : Bool} {v : Int} (h : valueFits signed v) :
    ∃ b3 b2 b1 b0, beBytes 4 (v % 2 ^ 32).toNat = [b3, b2, b1, b0] ∧ readValue signed (beNat [b3, b2, b1, b0]) = v := by
  obtain ⟨b3, b2, b1, b0, hbytes⟩ := exists_beBytes_four (v % 2 ^ 32).toNat
  refine ⟨b3, b2, b1, b0, hbytes, ?_⟩
  rw [← hbytes, beNat_beBytes_of_lt (by omega)]
  cases signed with
  | true => exact signExtend_twosComplement (bits := 32) (by decide) h
  | false =>
    obtain ⟨hlow, hhigh⟩ : 0 ≤ v ∧ v < 2 ^ 32 := h
    change (((v % 2 ^ 32).toNat : Nat) : Int) = v
    omega

/-- R105: a value on the grid is an integer that the field holds, divided by the power of ten. -/
theorem wellFormedNumber_iff (signed : Bool) (value : NUM) (decimals : Int) :
    WellFormed.number signed value decimals = true ↔
      ∃ v : Int, valueFits signed v ∧ value = (v : NUM) / pow10 decimals := by
  have hrange : ∀ v : Int, (if signed then decide (-(2 ^ 31) ≤ v ∧ v < 2 ^ 31)
      else decide (0 ≤ v ∧ v < 2 ^ 32)) = true ↔ valueFits signed v := by
    intro v
    cases signed <;> simp [valueFits]
  simp only [WellFormed.number, Bool.and_eq_true, decide_eq_true_eq, hrange]
  constructor
  · rintro ⟨hden, hfits⟩
    exact ⟨_, hfits, by rw [(Rat.den_eq_one_iff _).mp hden, mul_div_cancel_right₀ _ (pow10_ne_zero decimals)]⟩
  · rintro ⟨v, hfits, rfl⟩
    rw [div_mul_cancel₀ _ (pow10_ne_zero decimals)]
    exact ⟨Rat.den_intCast v, by simpa using hfits⟩

theorem scaled_num (v decimals : Int) : ((v : NUM) / pow10 decimals * pow10 decimals).num = v := by
  rw [div_mul_cancel₀ _ (pow10_ne_zero decimals), Rat.num_intCast]

/-- R106: taking the shift back and shifting are inverse. -/
theorem unshiftedX_shiftedX (F : Fonts) (x : Int) (font : Nat) (signed leftAdjust : Bool) (v : Int) :
    unshiftedX F (shiftedX F x (Fin.ofNat 10 font) signed leftAdjust v) font signed leftAdjust v = x := by
  rw [unshiftedX, shiftedX]
  split <;> omega

theorem shiftedX_unshiftedX (F : Fonts) (xw : Int) (font : Nat) (signed leftAdjust : Bool) (v : Int) :
    shiftedX F (unshiftedX F xw font signed leftAdjust v) (Fin.ofNat 10 font) signed leftAdjust v = xw := by
  rw [unshiftedX, shiftedX]
  split <;> omega

end Sys2Proof.Machine
end

section
/-! R45, R60, R61: the decoder against the layouts. A frame is opened by `decodeWith` and its command byte chooses the
layout; one lemma per layout says that what is read is well formed and has these very bytes as its fields. -/

namespace Sys2Proof.Machine

open Sys2Proof

theorem decodeWith_wrap (F : Fonts) (payload : Bytes) : decodeWith F (wrap payload) = decodePayload F payload := by
  have hlen : (payload ++ Config.suffix).length - 4 = payload.length := by simp [Config.suffix]
  rw [wrap, decodeWith, if_neg (by simp), if_neg (by simp [Config.suffix]), hlen, List.drop_left, if_neg (by simp),
    List.take_left]

/-- R45: only a wrapped payload decodes. -/
theorem exists_payload_of_decodeWith {F : Fonts} {bytes : Bytes} {i : Instr} (h : decodeWith F bytes = .ok i) :
    ∃ payload, bytes = wrap payload ∧ decodePayload F payload = .ok i := by
  cases bytes with
  | nil => contradiction
  | cons b rest =>
    rw [decodeWith] at h
    split at h
    case isTrue => contradiction
    case isFalse hprefix =>
      split at h
      case isTrue => contradiction
      case isFalse =>
        split at h
        case isTrue => contradiction
        case isFalse hsuffix =>
          refine ⟨_, ?_, h⟩
          rw [wrap, ← not_not.mp hprefix, ← not_not.mp hsuffix, List.take_append_drop]

/-- The command `i` is well formed and its payload is the command byte `op` and the bytes `fields`. -/
def Carries (F : Fonts) (op : Byte) (fields : Bytes) (i : Instr) : Prop :=
  wellFormedWith F i = true ∧ encodePayloadWith F i = op :: fields

theorem decodeRotation_carries (F : Fonts) {fields : Bytes} {i : Instr} (h : decodeRotation fields = .ok i) :
    Carries F 0x34 fields i := by
  unfold decodeRotation at h
  split at h
  case h_1 h1 h2 idx =>
    split at h
    case isFalse => contradiction
    case isTrue hheader =>
      obtain ⟨rfl, rfl⟩ := hheader
      split at h
      case isFalse => contradiction
      case isTrue hidx =>
        obtain rfl := Except.ok.inj h
        exact ⟨decide_eq_true (by omega), by simp [encodePayloadWith]⟩
  case h_2 => contradiction

theorem decodeBacklight_carries (F : Fonts) {fields : Bytes} {i : Instr} (h : decodeBacklight fields = .ok i) :
    Carries F 0x30 fields i := by
  unfold decodeBacklight at h
  split at h
  case h_1 l =>
    split at h
    case isFalse => contradiction
    case isTrue hmax =>
      obtain rfl := Except.ok.inj h
      refine ⟨(onGrid_iff (by decide) _).mpr ⟨_, hmax, rfl⟩, ?_⟩
      simp [encodePayloadWith, gridIndex_readChannel (max := 31) (by decide)]
  case h_2 => contradiction

theorem decodeClear_carries (F : Fonts) {fields : Bytes} {i : Instr} (h : decodeClear fields = .ok i) :
    Carries F 0x01 fields i := by
  unfold decodeClear at h
  split at h
  case h_1 c1 c0 =>
    obtain rfl := Except.ok.inj h
    exact ⟨wellFormedColor_readColor c1 c0, by simp [encodePayloadWith, putColor_readColor]⟩
  case h_2 => contradiction

theorem decodeLine_carries (F : Fonts) {fields : Bytes} {i : Instr} (h : decodeLine fields = .ok i) :
    Carries F 0x03 fields i := by
  unfold decodeLine at h
  split at h
  case h_1 =>
    obtain rfl := Except.ok.inj h
    exact ⟨by simp only [wellFormedWith, fits_readWord, wellFormedColor_readColor, Bool.and_self],
      by simp only [encodePayloadWith, putColor_readColor, beBytes_readWord]; rfl⟩
  case h_2 => contradiction

theorem decodeRect_carries (F : Fonts) {fields : Bytes} {i : Instr} (h : decodeRect fields = .ok i) :
    Carries F 0x05 fields i := by
  unfold decodeRect at h
  split at h
  case h_1 m _ _ _ _ _ _ _ _ _ _ =>
    split at h
    case isFalse => contradiction
    case isTrue hmode =>
      obtain rfl := Except.ok.inj h
      have hmode' : decide ((m.toNat : Int) = 0 ∨ (m.toNat : Int) = 1 ∨ (m.toNat : Int) = 2) = true :=
        decide_eq_true (by omega)
      exact ⟨by simp only [wellFormedWith, fits_readWord, wellFormedColor_readColor, hmode', Bool.and_self],
        by
          simp only [encodePayloadWith, putColor_readColor, beBytes_readWord, Int.toNat_natCast, beBytes_one_toNat]
          rfl⟩
  case h_2 => contradiction

theorem decodeJpeg_carries (F : Fonts) {fields : Bytes} {i : Instr} (h : decodeJpeg fields = .ok i) :
    Carries F 0x22 fields i := by
  unfold decodeJpeg at h
  split at h
  case h_1 z id =>
    split at h
    case isFalse => contradiction
    case isTrue hzero =>
      subst hzero
      obtain rfl := Except.ok.inj h
      exact ⟨fits_toNat id, by simp [encodePayloadWith]⟩
  case h_2 => contradiction

theorem decodeQr_carries (F : Fonts) {fields : Bytes} {i : Instr} (h : decodeQr fields = .ok i) :
    Carries F 0x21 fields i := by
  unfold decodeQr at h
  split at h
  case h_1 x1 x0 y1 y0 ps text =>
    cases htext : readText text with
    | error e => simp only [htext, bind, Except.bind, reduceCtorEq] at h
    | ok t =>
      simp only [htext, bind, Except.bind, Except.ok.injEq] at h
      subst h
      obtain ⟨hwf, hput⟩ := putText_of_readText htext
      exact ⟨by simp only [wellFormedWith, fits_readWord, hwf, fits_toNat, Bool.and_self],
        by simp [encodePayloadWith, hput]⟩
  case h_2 => contradiction

theorem decodeString_carries (F : Fonts) {fields : Bytes} {i : Instr} (h : decodeString fields = .ok i) :
    Carries F 0x11 fields i := by
  unfold decodeString at h
  split at h
  case h_1 fl f1 f0 g1 g0 x1 x0 y1 y0 text =>
    split at h
    case isTrue => contradiction
    case isFalse hreserved =>
      split at h
      case isTrue => contradiction
      case isFalse hfont =>
        cases hback : readBackground (fl.getLsbD 6) g1 g0 with
        | error e => simp only [hback, bind, Except.bind, reduceCtorEq] at h
        | ok bg =>
          cases htext : readText text with
          | error e => simp only [hback, htext, bind, Except.bind, reduceCtorEq] at h
          | ok t =>
            simp only [hback, htext, bind, Except.bind, Except.ok.injEq] at h
            subst h
            obtain ⟨hwfBg, hputBg, hsome⟩ := putBackground_of_readBackground hback
            obtain ⟨hwfText, hputText⟩ := putText_of_readText htext
            have hfont' : WellFormed.font ((fl.toNat % 2 ^ 4 : Nat) : Int) = true := decide_eq_true (by omega)
            refine ⟨by simp only [wellFormedWith, fits_readWord, wellFormedColor_readColor, hwfBg, hwfText, hfont',
              Bool.and_self], ?_⟩
            simp only [encodePayloadWith, hsome, Int.toNat_natCast, stringFlags_sum (not_not.mp hreserved),
              putColor_readColor, hputBg, hputText, beBytes_one_toNat, beBytes_readWord]
            rfl
  case h_2 => contradiction

theorem decodeNumber_carries (F : Fonts) {fields : Bytes} {i : Instr} (h : decodeNumber F fields = .ok i) :
    Carries F 0x14 fields i := by
  unfold decodeNumber at h
  split at h
  case h_1 fl f1 f0 g1 g0 ds dc x1 x0 y1 y0 v3 v2 v1 v0 =>
    split at h
    case isTrue => contradiction
    case isFalse hfont =>
      cases hback : readBackground (fl.getLsbD 7) g1 g0 with
      | error e => simp only [hback, bind, Except.bind, reduceCtorEq] at h
      | ok bg =>
        simp only [hback, bind, Except.bind, Except.ok.injEq] at h
        subst h
        have hlt : beNat [v3, v2, v1, v0] < 2 ^ 32 := beNat_lt [v3, v2, v1, v0]
        change Carries F 0x14 _ (.drawNumber (unshiftedX F _ _ _ _ (readValue (fl.getLsbD 6) (beNat [v3, v2, v1, v0])))
          _ (((readValue (fl.getLsbD 6) (beNat [v3, v2, v1, v0]) : Int) : NUM) / _) _ _ _ _ _ _ _ _)
        have hvalue := valueFits_readValue (fl.getLsbD 6) hlt
        have hbytes := readValue_mod (fl.getLsbD 6) hlt
        generalize readValue (fl.getLsbD 6) (beNat [v3, v2, v1, v0]) = v at hvalue hbytes ⊢
        obtain ⟨hwfBg, hputBg, hsome⟩ := putBackground_of_readBackground hback
        have hfont' : WellFormed.font ((fl.toNat % 2 ^ 4 : Nat) : Int) = true := decide_eq_true (by omega)
        have hnumber := (wellFormedNumber_iff (fl.getLsbD 6) _ dc.toNat).mpr ⟨v, hvalue, rfl⟩
        constructor
        · simp only [wellFormedWith, WellFormed.wireX, scaled_num, Int.toNat_natCast, shiftedX_unshiftedX,
            fits_readWord, hnumber, hfont', wellFormedColor_readColor, hwfBg, fits_toNat, Bool.and_self]
        · simp only [encodePayloadWith, scaled_num, Int.toNat_natCast, shiftedX_unshiftedX, hsome, numberFlags_sum,
            putColor_readColor, hputBg, beBytes_one_toNat, beBytes_readWord, hbytes,
            beBytes_beNat (bs := [v3, v2, v1, v0]) (n := 4) rfl]
          rfl
  case h_2 => contradiction

theorem decodeBare_carries (F : Fonts) {op : Byte} {bare i : Instr} {fields : Bytes}
    (hbare : Carries F op [] bare) (h : decodeBare bare fields = .ok i) : Carries F op fields i := by
  cases fields with
  | nil => exact Except.ok.inj h ▸ hbare
  | cons => contradiction

/-- R61: the command byte chooses the layout, and a byte other than the eleven is no command. -/
theorem decodePayload_carries {F : Fonts} {payload : Bytes} {i : Instr} (h : decodePayload F payload = .ok i) :
    wellFormedWith F i = true ∧ encodePayloadWith F i = payload := by
  cases payload with
  | nil => contradiction
  | cons op fields =>
    rw [decodePayload] at h
    rcases ite_eq_iff.mp h with ⟨rfl, h⟩ | ⟨-, h⟩
    · exact decodeBare_carries F ⟨rfl, rfl⟩ h
    rcases ite_eq_iff.mp h with ⟨rfl, h⟩ | ⟨-, h⟩
    · exact decodeRotation_carries F h
    rcases ite_eq_iff.mp h with ⟨rfl, h⟩ | ⟨-, h⟩
    · exact decodeBacklight_carries F h
    rcases ite_eq_iff.mp h with ⟨rfl, h⟩ | ⟨-, h⟩
    · exact decodeBare_carries F ⟨rfl, rfl⟩ h
    rcases ite_eq_iff.mp h with ⟨rfl, h⟩ | ⟨-, h⟩
    · exact decodeClear_carries F h
    rcases ite_eq_iff.mp h with ⟨rfl, h⟩ | ⟨-, h⟩
    · exact decodeLine_carries F h
    rcases ite_eq_iff.mp h with ⟨rfl, h⟩ | ⟨-, h⟩
    · exact decodeRect_carries F h
    rcases ite_eq_iff.mp h with ⟨rfl, h⟩ | ⟨-, h⟩
    · exact decodeString_carries F h
    rcases ite_eq_iff.mp h with ⟨rfl, h⟩ | ⟨-, h⟩
    · exact decodeNumber_carries F h
    rcases ite_eq_iff.mp h with ⟨rfl, h⟩ | ⟨-, h⟩
    · exact decodeQr_carries F h
    rcases ite_eq_iff.mp h with ⟨rfl, h⟩ | ⟨-, h⟩
    · exact decodeJpeg_carries F h
    contradiction

/-- Settles O2: only a wrapped payload decodes, and each layout's decoder answers the one well-formed command whose
fields the bytes are. -/
theorem encodeDecodeRoundTrip : Obligations.EncodeDecodeRoundTrip := by
  intro F bytes i h
  obtain ⟨payload, rfl, hpayload⟩ := exists_payload_of_decodeWith h
  obtain ⟨hwf, henc⟩ := decodePayload_carries hpayload
  exact ⟨hwf, by rw [encodeWith, henc]⟩

end Sys2Proof.Machine
end

section
/-! O1: from the payload of a well-formed command the decoder reads the command. One lemma per layout: each field of the
payload is put as bytes that read back as the operand, and the layout's decoder then has the operands in hand. -/

namespace Sys2Proof.Machine

open Sys2Proof

/-- The payload of `i` is read as `i`, if `i` is well formed. -/
def DecodesBack (F : Fonts) (i : Instr) : Prop :=
  wellFormedWith F i = true → decodePayload F (encodePayloadWith F i) = .ok i

theorem setRotation_decodesBack (F : Fonts) (angle : Int) : DecodesBack F (.setRotation angle) := by
  intro hwf
  rcases of_decide_eq_true hwf with rfl | rfl | rfl | rfl <;> rfl

theorem setBacklight_decodesBack (F : Fonts) (level : NUM) : DecodesBack F (.setBacklight level) := by
  intro hwf
  obtain ⟨k, hk, rfl⟩ := (onGrid_iff (by decide) level).mp hwf
  obtain ⟨b, hbytes, hb⟩ := exists_byte (n := k) (by omega)
  rw [encodePayloadWith, gridIndex_readChannel (by decide), hbytes]
  change decodeBacklight [b] = _
  rw [decodeBacklight, hb, if_pos hk]

theorem clearFrame_decodesBack (F : Fonts) (color : Color) : DecodesBack F (.clearFrame color) := by
  intro hwf
  obtain ⟨hi, lo, hput, hread⟩ := readColor_putColor hwf
  rw [encodePayloadWith, hput]
  change decodeClear [hi, lo] = _
  rw [decodeClear, hread]

theorem drawLine_decodesBack (F : Fonts) (x0 y0 x1 y1 : Int) (color : Color) :
    DecodesBack F (.drawLine x0 y0 x1 y1 color) := by
  intro hwf
  simp only [wellFormedWith, Bool.and_eq_true] at hwf
  obtain ⟨⟨⟨⟨hx0, hy0⟩, hx1⟩, hy1⟩, hcolor⟩ := hwf
  obtain ⟨c1, c0, hputC, hreadC⟩ := readColor_putColor hcolor
  obtain ⟨a1, a0, hputX0, hreadX0⟩ := exists_word_of_fits hx0
  obtain ⟨b1, b0, hputY0, hreadY0⟩ := exists_word_of_fits hy0
  obtain ⟨d1, d0, hputX1, hreadX1⟩ := exists_word_of_fits hx1
  obtain ⟨e1, e0, hputY1, hreadY1⟩ := exists_word_of_fits hy1
  rw [encodePayloadWith, hputC, hputX0, hputY0, hputX1, hputY1]
  change decodeLine [c1, c0, a1, a0, b1, b0, d1, d0, e1, e0] = _
  rw [decodeLine, hreadC, hreadX0, hreadY0, hreadX1, hreadY1]

theorem drawRect_decodesBack (F : Fonts) (x0 y0 x1 y1 : Int) (color : Color) (fillMode : Int) :
    DecodesBack F (.drawRect x0 y0 x1 y1 color fillMode) := by
  intro hwf
  simp only [wellFormedWith, Bool.and_eq_true, decide_eq_true_eq] at hwf
  obtain ⟨⟨⟨⟨⟨hx0, hy0⟩, hx1⟩, hy1⟩, hcolor⟩, hmode⟩ := hwf
  obtain ⟨m, hputM, hm⟩ := exists_byte_of_fits (v := fillMode) (decide_eq_true (by omega))
  obtain ⟨c1, c0, hputC, hreadC⟩ := readColor_putColor hcolor
  obtain ⟨a1, a0, hputX0, hreadX0⟩ := exists_word_of_fits (decide_eq_true hx0)
  obtain ⟨b1, b0, hputY0, hreadY0⟩ := exists_word_of_fits (decide_eq_true hy0)
  obtain ⟨d1, d0, hputX1, hreadX1⟩ := exists_word_of_fits (decide_eq_true hx1)
  obtain ⟨e1, e0, hputY1, hreadY1⟩ := exists_word_of_fits (decide_eq_true hy1)
  rw [encodePayloadWith, hputM, hputC, hputX0, hputY0, hputX1, hputY1]
  change decodeRect [m, c1, c0, a1, a0, b1, b0, d1, d0, e1, e0] = _
  rw [decodeRect, if_pos (by omega), hreadC, hreadX0, hreadY0, hreadX1, hreadY1, hm]

theorem drawString_decodesBack (F : Fonts) (x y : Int) (text : Text) (font : Int) (fg : Color) (bg : Option Color)
    (fixedWidth : Bool) : DecodesBack F (.drawString x y text font fg bg fixedWidth) := by
  intro hwf
  simp only [wellFormedWith, Bool.and_eq_true] at hwf
  obtain ⟨⟨⟨⟨⟨hx, hy⟩, htext⟩, hfont⟩, hfg⟩, hbg⟩ := hwf
  have hfont : 0 ≤ font ∧ font ≤ 9 := of_decide_eq_true hfont
  obtain ⟨fl, hputFl, hfl⟩ := exists_byte
    (n := (if fixedWidth then 0 else 128) + (if bg.isSome then 64 else 0) + font.toNat) (by split <;> split <;> omega)
  obtain ⟨hreserved, hnibble, hbit6, hbit7⟩ := stringFlags_fields (by omega) hfl
  obtain ⟨f1, f0, hputFg, hreadFg⟩ := readColor_putColor hfg
  obtain ⟨g1, g0, hputBg, hreadBg⟩ := readBackground_putBackground hbg
  obtain ⟨x1, x0, hputX, hreadX⟩ := exists_word_of_fits hx
  obtain ⟨y1, y0, hputY, hreadY⟩ := exists_word_of_fits hy
  rw [encodePayloadWith, hputFl, hputFg, hputBg, hputX, hputY]
  change decodeString (fl :: f1 :: f0 :: g1 :: g0 :: x1 :: x0 :: y1 :: y0 :: putText text) = _
  rw [decodeString, if_neg (not_not.mpr hreserved), if_neg (by omega), hbit6, hreadBg, readText_putText htext, hreadX,
    hreadY, hreadFg, hbit7, hnibble, Int.toNat_of_nonneg hfont.1]
  rfl

theorem drawNumber_decodesBack (F : Fonts) (x y : Int) (value : NUM) (font : Int) (fg : Color) (bg : Option Color)
    (signed : Bool) (digits decimals : Int) (leftAdjust zeroPad : Bool) :
    DecodesBack F (.drawNumber x y value font fg bg signed digits decimals leftAdjust zeroPad) := by
  intro hwf
  simp only [wellFormedWith, Bool.and_eq_true] at hwf
  obtain ⟨⟨⟨⟨⟨⟨⟨hx, hy⟩, hnumber⟩, hfont⟩, hfg⟩, hbg⟩, hdigits⟩, hdecimals⟩ := hwf
  obtain ⟨v, hv, rfl⟩ := (wellFormedNumber_iff signed value decimals).mp hnumber
  have hfont : 0 ≤ font ∧ font ≤ 9 := of_decide_eq_true hfont
  rw [WellFormed.wireX, scaled_num] at hx
  obtain ⟨fl, hputFl, hfl⟩ := exists_byte
    (n := (if bg.isSome then 128 else 0) + (if signed then 64 else 0) + (if leftAdjust then 0 else 32) +
      (if zeroPad then 16 else 0) + font.toNat) (by split <;> split <;> split <;> split <;> omega)
  obtain ⟨hnibble, hbit7, hbit6, hbit5, hbit4⟩ := numberFlags_fields (by omega) hfl
  obtain ⟨f1, f0, hputFg, hreadFg⟩ := readColor_putColor hfg
  obtain ⟨g1, g0, hputBg, hreadBg⟩ := readBackground_putBackground hbg
  obtain ⟨ds, hputDs, hds⟩ := exists_byte_of_fits hdigits
  obtain ⟨dc, hputDc, hdc⟩ := exists_byte_of_fits hdecimals
  obtain ⟨x1, x0, hputX, hreadX⟩ := exists_word_of_fits hx
  obtain ⟨y1, y0, hputY, hreadY⟩ := exists_word_of_fits hy
  obtain ⟨v3, v2, v1, v0, hputV, hreadV⟩ := exists_value_of_fits hv
  simp only [encodePayloadWith, scaled_num]
  rw [hputFl, hputFg, hputBg, hputDs, hputDc, hputX, hputY, hputV]
  change decodeNumber F [fl, f1, f0, g1, g0, ds, dc, x1, x0, y1, y0, v3, v2, v1, v0] = _
  rw [readValue] at hreadV
  have hfontFits : ¬9 < font.toNat := by omega
  simp only [decodeNumber, hnibble, if_neg hfontFits, hbit7, hbit6, hbit5, hbit4, hreadBg, hreadV, bind, Except.bind,
    hreadX, hreadY, hreadFg, hds, hdc, unshiftedX_shiftedX, Int.toNat_of_nonneg hfont.1]

theorem drawQr_decodesBack (F : Fonts) (x y : Int) (text : Text) (pixelSize : Int) :
    DecodesBack F (.drawQr x y text pixelSize) := by
  intro hwf
  simp only [wellFormedWith, Bool.and_eq_true] at hwf
  obtain ⟨⟨⟨hx, hy⟩, htext⟩, hsize⟩ := hwf
  obtain ⟨x1, x0, hputX, hreadX⟩ := exists_word_of_fits hx
  obtain ⟨y1, y0, hputY, hreadY⟩ := exists_word_of_fits hy
  obtain ⟨ps, hputPs, hps⟩ := exists_byte_of_fits hsize
  rw [encodePayloadWith, hputX, hputY, hputPs]
  change decodeQr (x1 :: x0 :: y1 :: y0 :: ps :: putText text) = _
  rw [decodeQr, readText_putText htext, hreadX, hreadY, hps]
  rfl

theorem loadJpeg_decodesBack (F : Fonts) (id : Int) : DecodesBack F (.loadJpeg id) := by
  intro hwf
  obtain ⟨b, hput, hb⟩ := exists_byte_of_fits hwf
  rw [encodePayloadWith, hput]
  change decodeJpeg [0x00, b] = _
  rw [decodeJpeg, if_pos rfl, hb]

theorem decodePayload_encodePayloadWith (F : Fonts) (i : Instr) : DecodesBack F i := by
  cases i with
  | handshake => exact fun _ => rfl
  | setRotation angle => exact setRotation_decodesBack F angle
  | setBacklight level => exact setBacklight_decodesBack F level
  | updateLcd => exact fun _ => rfl
  | clearFrame color => exact clearFrame_decodesBack F color
  | drawLine x0 y0 x1 y1 color => exact drawLine_decodesBack F x0 y0 x1 y1 color
  | drawRect x0 y0 x1 y1 color fillMode => exact drawRect_decodesBack F x0 y0 x1 y1 color fillMode
  | drawString x y text font fg bg fixedWidth => exact drawString_decodesBack F x y text font fg bg fixedWidth
  | drawNumber x y value font fg bg signed digits decimals leftAdjust zeroPad =>
    exact drawNumber_decodesBack F x y value font fg bg signed digits decimals leftAdjust zeroPad
  | drawQr x y text pixelSize => exact drawQr_decodesBack F x y text pixelSize
  | loadJpeg id => exact loadJpeg_decodesBack F id

/-- Settles O1: the decoder opens the frame and reads the payload back, layout by layout. -/
theorem decodeEncodeRoundTrip : Obligations.DecodeEncodeRoundTrip := by
  intro F i hwf
  rw [encodeWith, decodeWith_wrap]
  exact decodePayload_encodePayloadWith F i hwf

/-- Settles O6: four of the written frames are evaluated; the fifth is the frame of a well-formed command, full red,
whose colour word is `F8 00`. -/
theorem writtenFramesDecode : Obligations.WrittenFramesDecode := by
  have hred : readColor 0xF8 0x00 = ⟨1, 0, 0⟩ := by
    simp [readColor, readChannel, beNat]
  refine ⟨rfl, rfl, ?_, rfl, rfl⟩
  rw [← hred]
  rfl

end Sys2Proof.Machine
end

section
/-! R47: what `encode(c)` answers, for all eleven commands in one form. The frame is the layout's frame of `snap c`, the
command on the quantization grid nearest to `c` (log 7). `inDomain` are the operand checks that raise DomainError
(R161), which all come first in wire order, and `fieldsFit` those that raise EncodingError (R162). -/

namespace Sys2Proof.Machine

open Sys2Proof

/-- R54, R55: the colour after quantization. -/
def snapColor (c : Color) : Color :=
  gridColor ⌊31 * c.r + 1 / 2⌋.toNat ⌊63 * c.g + 1 / 2⌋.toNat ⌊31 * c.b + 1 / 2⌋.toNat

/-- The command that the frame of `c` stands for: colours and level quantized, the value rounded (R105). -/
def snap : Instr → Instr
  | .setBacklight level => .setBacklight (readChannel 31 ⌊31 * level + 1 / 2⌋.toNat)
  | .clearFrame color => .clearFrame (snapColor color)
  | .drawLine x0 y0 x1 y1 color => .drawLine x0 y0 x1 y1 (snapColor color)
  | .drawRect x0 y0 x1 y1 color fillMode => .drawRect x0 y0 x1 y1 (snapColor color) fillMode
  | .drawString x y text font fg bg fixedWidth =>
    .drawString x y text font (snapColor fg) (bg.map snapColor) fixedWidth
  | .drawNumber x y value font fg bg signed digits decimals leftAdjust zeroPad =>
    .drawNumber x y ((scaledValue value decimals : NUM) / pow10 decimals) font (snapColor fg) (bg.map snapColor) signed
      digits decimals leftAdjust zeroPad
  | c => c

/-- R161, R59: the operands whose fields raise DomainError are admitted. -/
def inDomain : Instr → Prop
  | .setRotation angle => angle ∈ [0, 90, 180, 270]
  | .setBacklight level => legalChannel level
  | .clearFrame color => legalColor color
  | .drawLine _ _ _ _ color => legalColor color
  | .drawRect _ _ _ _ color fillMode => fillMode ∈ [0, 1, 2] ∧ legalColor color
  | .drawString _ _ _ font fg bg _ => (0 ≤ font ∧ font ≤ 9) ∧ legalColor fg ∧ legalBackground bg
  | .drawNumber _ _ _ font fg bg _ _ _ _ _ => (0 ≤ font ∧ font ≤ 9) ∧ legalColor fg ∧ legalBackground bg
  | _ => True

/-- R162: every other operand fits its field. -/
def fieldsFit (F : Fonts) : Instr → Prop
  | .drawLine x0 y0 x1 y1 _ => fitsU 2 x0 ∧ fitsU 2 y0 ∧ fitsU 2 x1 ∧ fitsU 2 y1
  | .drawRect x0 y0 x1 y1 _ _ => fitsU 2 x0 ∧ fitsU 2 y0 ∧ fitsU 2 x1 ∧ fitsU 2 y1
  | .drawString x y text _ _ _ _ => fitsU 2 x ∧ fitsU 2 y ∧ asciiText text
  | .drawNumber x y value font _ _ signed digits decimals leftAdjust _ =>
    fitsU 1 digits ∧ fitsU 1 decimals ∧
      fitsU 2 (shiftedX F x (Fin.ofNat 10 font.toNat) signed leftAdjust (scaledValue value decimals)) ∧ fitsU 2 y ∧
      valueFits signed (scaledValue value decimals)
  | .drawQr x y text pixelSize => fitsU 2 x ∧ fitsU 2 y ∧ fitsU 1 pixelSize ∧ asciiText text
  | .loadJpeg id => fitsU 1 id
  | _ => True

@[simp] theorem commandByte_snap (c : Instr) : commandByte (snap c) = commandByte c := by
  cases c <;> rfl

@[simp] theorem frameLength_snap (c : Instr) : frameLength (snap c) = frameLength c := by
  cases c <;> rfl

theorem putColor_snapColor (c : Color) : putColor (snapColor c) = beBytes 2 (colorWord c) :=
  putColor_gridColor _ _ _

theorem putBackground_snapColor (bg : Option Color) :
    putBackground (bg.map snapColor) = beBytes 2 (backgroundWord bg) := by
  cases bg with
  | none => rfl
  | some c => exact putColor_snapColor c

theorem ok_bind {α : Type} (a : α) (rest : α → Except EncErr Bytes) : (Except.ok a >>= rest) = rest a := rfl

/-- An encoder that answers bytes where its operand is admitted, and the error `e` elsewhere, runs the rest of the
frame's encoder only on an admitted operand. -/
theorem bind_of_ite {p : Prop} [Decidable p] (bs : Bytes) (e : EncErr) (rest : Bytes → Except EncErr Bytes) :
    ((if p then Except.ok bs else .error e) >>= rest) = if p then rest bs else .error e := by
  split <;> rfl

/-- Two checks in a row with one error class are one check. -/
theorem ite_ite_error {p q : Prop} [Decidable p] [Decidable q] (r e : Except EncErr Bytes) :
    (if p then if q then r else e else e) = if p ∧ q then r else e :=
  (ite_and p q r e).symm

theorem encU_eq (n : Nat) (v : Int) :
    encU n v = if fitsU n v then .ok (beBytes n v.toNat) else .error .encoding := rfl

theorem encColor_eq (c : Color) :
    encColor c = if legalColor c then .ok (putColor (snapColor c)) else .error .domain := by
  rw [putColor_snapColor]
  split
  case isTrue h => exact encColor_ok c h
  case isFalse h => exact encColor_error c h

theorem bgField_eq (bg : Option Color) :
    bgField bg = if legalBackground bg then .ok (putBackground (bg.map snapColor)) else .error .domain := by
  rw [putBackground_snapColor]
  split
  case isTrue h => exact bgField_ok bg h
  case isFalse h => exact bgField_error bg h

theorem encText_eq (t : Text) : encText t = if asciiText t then .ok (putText t) else .error .encoding := by
  split
  case isTrue h => exact encText_ok t h
  case isFalse h => exact encText_error t h

theorem valueField_eq (signed : Bool) (v : Int) [Decidable (valueFits signed v)] :
    valueField signed v = if valueFits signed v then .ok (beBytes 4 (v % 2 ^ 32).toNat) else .error .encoding := by
  cases signed with
  | true =>
    change encS 4 v = _
    split
    case isTrue h => exact encS_ok v (by have := h.1; have := h.2; omega)
    case isFalse h => exact encS_error v fun h' => h ⟨by omega, by omega⟩
  | false =>
    change encU 4 v = _
    split
    case isTrue h =>
      obtain ⟨hlow, hhigh⟩ : 0 ≤ v ∧ v < 2 ^ 32 := h
      rw [encU_ok 4 v ⟨hlow, hhigh⟩, Int.emod_eq_of_lt hlow hhigh]
    case isFalse h => exact encU_error 4 v h

/-- R92: the fill mode and its byte, which fits once the mode is admitted. -/
theorem fillField_bind (m : Int) (rest : Bytes → Except EncErr Bytes) :
    (fillField m >>= fun k => encU 1 k >>= rest) =
      if m ∈ [0, 1, 2] then rest (beBytes 1 m.toNat) else .error .domain := by
  have hmem : m ∈ [0, 1, 2] ↔ m = 0 ∨ m = 1 ∨ m = 2 := by simp
  split
  case isTrue h =>
    rw [hmem] at h
    rw [fillField_ok m h, ok_bind, encU_ok 1 m (by omega), ok_bind]
  case isFalse h =>
    rw [fillField_error m (mt hmem.mpr h)]
    rfl

/-- R59: the font index and then a flags byte that it is part of, which fits once the font is admitted. -/
theorem fontField_bind (font : Int) {flags : Nat → Nat} {base : Nat} (rest : Fin 10 → Bytes → Except EncErr Bytes)
    (hflags : ∀ f ≤ 9, flags f = base + f) (hbase : base ≤ 240) :
    (fontField font >>= fun f => encU 1 (flags f : Nat) >>= rest f) =
      if 0 ≤ font ∧ font ≤ 9 then rest (Fin.ofNat 10 font.toNat) (beBytes 1 (base + font.toNat))
      else .error .domain := by
  split
  case isTrue h =>
    have hval : (Fin.ofNat 10 font.toNat).val = font.toNat := Nat.mod_eq_of_lt (by omega)
    rw [fontField_ok font h, ok_bind, hval, hflags _ (by omega), encU_ok 1 _ (by omega), ok_bind, Int.toNat_natCast]
  case isFalse h =>
    rw [fontField_error font h]
    rfl

/-- What `encode(c)` answers: the frame of `snap c`, or the class of the check that fails. -/
structure EncodesAsSnap (F : Fonts) (c : Instr) : Prop where
  ok : inDomain c → fieldsFit F c → encodeCommandWith F c = .ok (encodeWith F (snap c))
  domain : ¬inDomain c → encodeCommandWith F c = .error .domain
  encoding : inDomain c → ¬fieldsFit F c → encodeCommandWith F c = .error .encoding

theorem encodesAsSnap_of_eq_ite {F : Fonts} {c : Instr} {p q : Prop} [Decidable p] [Decidable q]
    (hp : inDomain c ↔ p) (hq : fieldsFit F c ↔ q) (h : encodeCommandWith F c =
      if p then if q then .ok (encodeWith F (snap c)) else .error .encoding else .error .domain) :
    EncodesAsSnap F c where
  ok hdom hfit := by rw [h, if_pos (hp.mp hdom), if_pos (hq.mp hfit)]
  domain hdom := by rw [h, if_neg (mt hp.mpr hdom)]
  encoding hdom hfit := by rw [h, if_pos (hp.mp hdom), if_neg (mt hq.mpr hfit)]

theorem setRotation_encodesAsSnap (F : Fonts) (angle : Int) : EncodesAsSnap F (.setRotation angle) where
  ok hdom _ := by
    have hangle : angle = 0 ∨ angle = 90 ∨ angle = 180 ∨ angle = 270 := by simpa [inDomain] using hdom
    rcases hangle with rfl | rfl | rfl | rfl <;> rfl
  domain hdom := encodeCommand_setRotation_error hdom
  encoding _ hfit := absurd trivial hfit

theorem setBacklight_encodesAsSnap (F : Fonts) (level : NUM) : EncodesAsSnap F (.setBacklight level) where
  ok hdom _ := by
    refine (encodeCommand_setBacklight_ok hdom).trans ?_
    simp only [encodeWith, snap, encodePayloadWith, gridIndex_readChannel (max := 31) (by decide), beBytes,
      Nat.mul_zero, Nat.pow_zero, Nat.div_one]
    rfl
  domain hdom := encodeCommand_setBacklight_error hdom
  encoding _ hfit := absurd trivial hfit

theorem clearFrame_encodesAsSnap (F : Fonts) (color : Color) : EncodesAsSnap F (.clearFrame color) :=
  encodesAsSnap_of_eq_ite (p := legalColor color) (q := True) Iff.rfl Iff.rfl <| by
    change encClearFrame color = _
    simp only [encClearFrame, encColor_eq, bind_of_ite, if_true]
    rfl

theorem drawLine_encodesAsSnap (F : Fonts) (x0 y0 x1 y1 : Int) (color : Color) :
    EncodesAsSnap F (.drawLine x0 y0 x1 y1 color) :=
  encodesAsSnap_of_eq_ite (p := legalColor color) (q := fitsU 2 x0 ∧ fitsU 2 y0 ∧ fitsU 2 x1 ∧ fitsU 2 y1)
    Iff.rfl Iff.rfl <| by
    change encDrawLine x0 y0 x1 y1 color = _
    simp only [encDrawLine, encU_eq, encColor_eq, bind_of_ite, ite_ite_error]
    rfl

theorem drawRect_encodesAsSnap (F : Fonts) (x0 y0 x1 y1 : Int) (color : Color) (fillMode : Int) :
    EncodesAsSnap F (.drawRect x0 y0 x1 y1 color fillMode) :=
  encodesAsSnap_of_eq_ite (p := fillMode ∈ [0, 1, 2] ∧ legalColor color)
    (q := fitsU 2 x0 ∧ fitsU 2 y0 ∧ fitsU 2 x1 ∧ fitsU 2 y1) Iff.rfl Iff.rfl <| by
    change encDrawRect x0 y0 x1 y1 color fillMode = _
    rw [encDrawRect, fillField_bind]
    simp only [encU_eq, encColor_eq, bind_of_ite, ite_ite_error]
    rfl

theorem drawString_encodesAsSnap (F : Fonts) (x y : Int) (text : Text) (font : Int) (fg : Color) (bg : Option Color)
    (fixedWidth : Bool) : EncodesAsSnap F (.drawString x y text font fg bg fixedWidth) :=
  encodesAsSnap_of_eq_ite (p := (0 ≤ font ∧ font ≤ 9) ∧ legalColor fg ∧ legalBackground bg)
    (q := fitsU 2 x ∧ fitsU 2 y ∧ asciiText text) Iff.rfl Iff.rfl <| by
    change encDrawString x y text font fg bg fixedWidth = _
    rw [encDrawString, fontField_bind font _ (stringFlags_eq fixedWidth bg.isSome) (by split <;> split <;> omega)]
    simp only [encU_eq, encColor_eq, bgField_eq, encText_eq, bind_of_ite, ite_ite_error, encodeWith, snap,
      encodePayloadWith, Option.isSome_map]

theorem drawNumber_encodesAsSnap (F : Fonts) (x y : Int) (value : NUM) (font : Int) (fg : Color) (bg : Option Color)
    (signed : Bool) (digits decimals : Int) (leftAdjust zeroPad : Bool) :
    EncodesAsSnap F (.drawNumber x y value font fg bg signed digits decimals leftAdjust zeroPad) := by
  classical
  refine encodesAsSnap_of_eq_ite (p := (0 ≤ font ∧ font ≤ 9) ∧ legalColor fg ∧ legalBackground bg)
    (q := fitsU 1 digits ∧ fitsU 1 decimals ∧
      fitsU 2 (shiftedX F x (Fin.ofNat 10 font.toNat) signed leftAdjust (scaledValue value decimals)) ∧ fitsU 2 y ∧
      valueFits signed (scaledValue value decimals)) Iff.rfl Iff.rfl ?_
  change encDrawNumber F x y value font fg bg signed digits decimals leftAdjust zeroPad = _
  rw [encDrawNumber, fontField_bind font _ (numberFlags_eq bg.isSome signed leftAdjust zeroPad)
    (by split <;> split <;> split <;> split <;> omega)]
  simp only [encU_eq, encColor_eq, bgField_eq, valueField_eq, bind_of_ite, ite_ite_error, encodeWith, snap,
    encodePayloadWith, Option.isSome_map, scaled_num]

theorem drawQr_encodesAsSnap (F : Fonts) (x y : Int) (text : Text) (pixelSize : Int) :
    EncodesAsSnap F (.drawQr x y text pixelSize) :=
  encodesAsSnap_of_eq_ite (p := True) (q := fitsU 2 x ∧ fitsU 2 y ∧ fitsU 1 pixelSize ∧ asciiText text)
    Iff.rfl Iff.rfl <| by
    change encDrawQr x y text pixelSize = _
    simp only [encDrawQr, encU_eq, encText_eq, bind_of_ite, ite_ite_error, if_true]
    rfl

theorem loadJpeg_encodesAsSnap (F : Fonts) (id : Int) : EncodesAsSnap F (.loadJpeg id) :=
  encodesAsSnap_of_eq_ite (p := True) (q := fitsU 1 id) Iff.rfl Iff.rfl <| by
    change encLoadJpeg id = _
    simp only [encLoadJpeg, encU_eq, bind_of_ite, if_true]
    rfl

/-- A command without operands has one frame. -/
theorem bare_encodesAsSnap {F : Fonts} {c : Instr} (hdom : inDomain c) (hfit : fieldsFit F c)
    (h : encodeCommandWith F c = .ok (encodeWith F (snap c))) : EncodesAsSnap F c where
  ok _ _ := h
  domain hnot := absurd hdom hnot
  encoding _ hnot := absurd hfit hnot

/-- R47, R161, R162, D14: what `encode(c)` answers, on every command. -/
theorem encodesAsSnap (F : Fonts) (c : Instr) : EncodesAsSnap F c := by
  cases c with
  | handshake => exact bare_encodesAsSnap trivial trivial rfl
  | setRotation angle => exact setRotation_encodesAsSnap F angle
  | setBacklight level => exact setBacklight_encodesAsSnap F level
  | updateLcd => exact bare_encodesAsSnap trivial trivial rfl
  | clearFrame color => exact clearFrame_encodesAsSnap F color
  | drawLine x0 y0 x1 y1 color => exact drawLine_encodesAsSnap F x0 y0 x1 y1 color
  | drawRect x0 y0 x1 y1 color fillMode => exact drawRect_encodesAsSnap F x0 y0 x1 y1 color fillMode
  | drawString x y text font fg bg fixedWidth => exact drawString_encodesAsSnap F x y text font fg bg fixedWidth
  | drawNumber x y value font fg bg signed digits decimals leftAdjust zeroPad =>
    exact drawNumber_encodesAsSnap F x y value font fg bg signed digits decimals leftAdjust zeroPad
  | drawQr x y text pixelSize => exact drawQr_encodesAsSnap F x y text pixelSize
  | loadJpeg id => exact loadJpeg_encodesAsSnap F id

theorem encodeCommandWith_eq_ok_iff (F : Fonts) (c : Instr) (frame : Bytes) :
    encodeCommandWith F c = .ok frame ↔ (inDomain c ∧ fieldsFit F c) ∧ encodeWith F (snap c) = frame := by
  have h := encodesAsSnap F c
  by_cases hdom : inDomain c
  case neg => simp [h.domain hdom, hdom]
  by_cases hfit : fieldsFit F c
  case neg => simp [h.encoding hdom hfit, hfit]
  simp [h.ok hdom hfit, hdom, hfit]

end Sys2Proof.Machine
end

section
/-! R62: the frames that are emitted. `snap c` is a well-formed command, and it is `c` itself where `c` is well formed
already; so the statements about all emitted frames are statements about frames of the layouts. -/

namespace Sys2Proof.Machine

open Sys2Proof

theorem onGrid_quantized {max : Nat} (hmax : 0 < max) {c : NUM} (h : legalChannel c) :
    WellFormed.onGrid max (readChannel max ⌊(max : NUM) * c + 1 / 2⌋.toNat) = true :=
  (onGrid_iff hmax _).mpr ⟨_, floor_half_toNat_le max c h, rfl⟩

theorem wellFormedColor_snapColor {c : Color} (h : legalColor c) : WellFormed.color (snapColor c) = true :=
  (wellFormedColor_iff _).mpr ⟨_, floor_half_toNat_le 31 c.r h.1, _, floor_half_toNat_le 63 c.g h.2.1, _,
    floor_half_toNat_le 31 c.b h.2.2, rfl⟩

theorem wellFormedBackground_snapColor {bg : Option Color} (h : legalBackground bg) :
    WellFormed.background (bg.map snapColor) = true := by
  cases bg with
  | none => rfl
  | some c => exact wellFormedColor_snapColor (h c rfl)

theorem wellFormedWith_snap {F : Fonts} {c : Instr} (hdom : inDomain c) (hfit : fieldsFit F c) :
    wellFormedWith F (snap c) = true := by
  cases c with
  | handshake => rfl
  | setRotation angle =>
    have hangle : angle = 0 ∨ angle = 90 ∨ angle = 180 ∨ angle = 270 := by simpa [inDomain] using hdom
    exact decide_eq_true hangle
  | setBacklight level => exact onGrid_quantized (max := 31) (by decide) hdom
  | updateLcd => rfl
  | clearFrame color => exact wellFormedColor_snapColor hdom
  | drawLine x0 y0 x1 y1 color =>
    obtain ⟨hx0, hy0, hx1, hy1⟩ := hfit
    simp only [snap, wellFormedWith, WellFormed.fits, wellFormedColor_snapColor hdom, hx0, hy0, hx1, hy1, and_self,
      decide_true, Bool.and_self]
  | drawRect x0 y0 x1 y1 color fillMode =>
    obtain ⟨hmode, hcolor⟩ := hdom
    obtain ⟨hx0, hy0, hx1, hy1⟩ := hfit
    have hmode' : fillMode = 0 ∨ fillMode = 1 ∨ fillMode = 2 := by simpa using hmode
    simp only [snap, wellFormedWith, WellFormed.fits, wellFormedColor_snapColor hcolor, hx0, hy0, hx1, hy1, hmode',
      and_self, decide_true, Bool.and_self]
  | drawString x y text font fg bg fixedWidth =>
    obtain ⟨hfont, hfg, hbg⟩ := hdom
    obtain ⟨hx, hy, htext⟩ := hfit
    simp only [snap, wellFormedWith, WellFormed.fits, WellFormed.font, hfont, wellFormedColor_snapColor hfg,
      wellFormedBackground_snapColor hbg, hx, hy, (wellFormedText_iff text).mpr htext, and_self, decide_true,
      Bool.and_self]
  | drawNumber x y value font fg bg signed digits decimals leftAdjust zeroPad =>
    obtain ⟨hfont, hfg, hbg⟩ := hdom
    obtain ⟨hdigits, hdecimals, hx, hy, hvalue⟩ := hfit
    have hnumber := (wellFormedNumber_iff signed _ decimals).mpr ⟨_, hvalue, rfl⟩
    simp only [snap, wellFormedWith, WellFormed.wireX, scaled_num, hnumber, WellFormed.font, hfont,
      wellFormedColor_snapColor hfg, wellFormedBackground_snapColor hbg, WellFormed.fits, hx, hy, hdigits, hdecimals,
      and_self, decide_true, Bool.and_self]
  | drawQr x y text pixelSize =>
    obtain ⟨hx, hy, hsize, htext⟩ := hfit
    simp only [snap, wellFormedWith, WellFormed.fits, hx, hy, hsize, (wellFormedText_iff text).mpr htext, and_self,
      decide_true, Bool.and_self]
  | loadJpeg id => exact decide_eq_true hfit

theorem legalColor_gridColor {r g b : Nat} (hr : r ≤ 31) (hg : g ≤ 63) (hb : b ≤ 31) : legalColor (gridColor r g b) :=
  ⟨legalChannel_readChannel (by decide) hr, legalChannel_readChannel (by decide) hg,
    legalChannel_readChannel (by decide) hb⟩

theorem snapColor_gridColor (r g b : Nat) : snapColor (gridColor r g b) = gridColor r g b := by
  have h31 := floor_half_readChannel (max := 31) (by decide)
  have h63 := floor_half_readChannel (max := 63) (by decide) g
  simp only [Nat.cast_ofNat] at h31 h63
  simp only [snapColor, gridColor, h31, h63]

theorem legal_and_snap_of_wellFormedColor {c : Color} (h : WellFormed.color c = true) :
    legalColor c ∧ snapColor c = c := by
  obtain ⟨r, hr, g, hg, b, hb, rfl⟩ := (wellFormedColor_iff c).mp h
  exact ⟨legalColor_gridColor hr hg hb, snapColor_gridColor r g b⟩

theorem legal_and_snap_of_wellFormedBackground {bg : Option Color} (h : WellFormed.background bg = true) :
    legalBackground bg ∧ bg.map snapColor = bg := by
  cases bg with
  | none => exact ⟨fun _ hc => (nomatch hc), rfl⟩
  | some c =>
    obtain ⟨hlegal, hsnap⟩ := legal_and_snap_of_wellFormedColor h
    exact ⟨fun _ hc => Option.some.inj hc ▸ hlegal, congrArg some hsnap⟩

/-- R56: an integer is rounded to itself. -/
theorem roundHaz_intCast (v : Int) : roundHaz (v : NUM) = v := by
  have hnat : ∀ n : Nat, roundHaz (n : NUM) = n := fun n => by
    rw [roundHaz_of_nonneg (Nat.cast_nonneg n), floor_half_natCast]
  obtain ⟨n, rfl | rfl⟩ := v.eq_nat_or_neg
  · exact_mod_cast hnat n
  · rcases n.eq_zero_or_pos with rfl | hpos
    · exact_mod_cast hnat 0
    · have hneg : (((-(n : Int) : Int)) : NUM) < 0 := by exact_mod_cast neg_neg_of_pos (Int.natCast_pos.mpr hpos)
      rw [roundHaz_of_neg hneg]
      push_cast
      rw [neg_neg, hnat]

theorem scaledValue_div (v decimals : Int) : scaledValue ((v : NUM) / pow10 decimals) decimals = v := by
  rw [scaledValue, div_mul_cancel₀ _ (pow10_ne_zero decimals), roundHaz_intCast]

/-- Quantization and rounding leave a well-formed command as it is, and all its checks pass. -/
theorem snap_eq_self_of_wellFormed {F : Fonts} {c : Instr} (hwf : wellFormedWith F c = true) :
    (inDomain c ∧ fieldsFit F c) ∧ snap c = c := by
  cases c with
  | handshake => exact ⟨⟨trivial, trivial⟩, rfl⟩
  | setRotation angle => exact ⟨⟨by simpa [inDomain, wellFormedWith] using hwf, trivial⟩, rfl⟩
  | setBacklight level =>
    obtain ⟨k, hk, rfl⟩ := (onGrid_iff (by decide) level).mp hwf
    have hfloor := floor_half_readChannel (max := 31) (by decide) k
    simp only [Nat.cast_ofNat] at hfloor
    exact ⟨⟨legalChannel_readChannel (by decide) hk, trivial⟩, by rw [snap, hfloor]⟩
  | updateLcd => exact ⟨⟨trivial, trivial⟩, rfl⟩
  | clearFrame color =>
    obtain ⟨hlegal, hsnap⟩ := legal_and_snap_of_wellFormedColor hwf
    exact ⟨⟨hlegal, trivial⟩, by rw [snap, hsnap]⟩
  | drawLine x0 y0 x1 y1 color =>
    simp only [wellFormedWith, WellFormed.fits, Bool.and_eq_true, decide_eq_true_eq] at hwf
    obtain ⟨⟨⟨⟨hx0, hy0⟩, hx1⟩, hy1⟩, hcolor⟩ := hwf
    obtain ⟨hlegal, hsnap⟩ := legal_and_snap_of_wellFormedColor hcolor
    exact ⟨⟨hlegal, hx0, hy0, hx1, hy1⟩, by rw [snap, hsnap]⟩
  | drawRect x0 y0 x1 y1 color fillMode =>
    simp only [wellFormedWith, WellFormed.fits, Bool.and_eq_true, decide_eq_true_eq] at hwf
    obtain ⟨⟨⟨⟨⟨hx0, hy0⟩, hx1⟩, hy1⟩, hcolor⟩, hmode⟩ := hwf
    obtain ⟨hlegal, hsnap⟩ := legal_and_snap_of_wellFormedColor hcolor
    exact ⟨⟨⟨by simpa using hmode, hlegal⟩, hx0, hy0, hx1, hy1⟩, by rw [snap, hsnap]⟩
  | drawString x y text font fg bg fixedWidth =>
    simp only [wellFormedWith, WellFormed.fits, WellFormed.font, Bool.and_eq_true, decide_eq_true_eq,
      wellFormedText_iff] at hwf
    obtain ⟨⟨⟨⟨⟨hx, hy⟩, htext⟩, hfont⟩, hfg⟩, hbg⟩ := hwf
    obtain ⟨hlegalFg, hsnapFg⟩ := legal_and_snap_of_wellFormedColor hfg
    obtain ⟨hlegalBg, hsnapBg⟩ := legal_and_snap_of_wellFormedBackground hbg
    exact ⟨⟨⟨hfont, hlegalFg, hlegalBg⟩, hx, hy, htext⟩, by rw [snap, hsnapFg, hsnapBg]⟩
  | drawNumber x y value font fg bg signed digits decimals leftAdjust zeroPad =>
    simp only [wellFormedWith, WellFormed.wireX, WellFormed.fits, WellFormed.font, Bool.and_eq_true,
      decide_eq_true_eq, wellFormedNumber_iff] at hwf
    obtain ⟨⟨⟨⟨⟨⟨⟨hx, hy⟩, v, hvalue, rfl⟩, hfont⟩, hfg⟩, hbg⟩, hdigits⟩, hdecimals⟩ := hwf
    rw [scaled_num] at hx
    obtain ⟨hlegalFg, hsnapFg⟩ := legal_and_snap_of_wellFormedColor hfg
    obtain ⟨hlegalBg, hsnapBg⟩ := legal_and_snap_of_wellFormedBackground hbg
    refine ⟨⟨⟨hfont, hlegalFg, hlegalBg⟩, ?_⟩, by rw [snap, hsnapFg, hsnapBg, scaledValue_div]⟩
    rw [fieldsFit, scaledValue_div]
    exact ⟨hdigits, hdecimals, hx, hy, hvalue⟩
  | drawQr x y text pixelSize =>
    simp only [wellFormedWith, WellFormed.fits, Bool.and_eq_true, decide_eq_true_eq, wellFormedText_iff] at hwf
    obtain ⟨⟨⟨hx, hy⟩, htext⟩, hsize⟩ := hwf
    exact ⟨⟨trivial, hx, hy, hsize, htext⟩, rfl⟩
  | loadJpeg id => exact ⟨⟨trivial, of_decide_eq_true (p := fitsU 1 id) hwf⟩, rfl⟩

/-- Settles O3: a well-formed command passes every check, and the frame is that of `snap i`, which is `i`. -/
theorem blockEncoderMatchesLayouts : Obligations.BlockEncoderMatchesLayouts := by
  intro F i hwf
  obtain ⟨hlegal, hsnap⟩ := snap_eq_self_of_wellFormed hwf
  exact (encodeCommandWith_eq_ok_iff F i _).mpr ⟨hlegal, by rw [hsnap]⟩

/-- Settles O4: the frame is that of `snap c`, which is well formed, so the decoder reads `snap c` from it (O1). -/
theorem emittedFramesDecode : Obligations.EmittedFramesDecode := by
  intro F c frame henc
  obtain ⟨⟨hdom, hfit⟩, rfl⟩ := (encodeCommandWith_eq_ok_iff F c frame).mp henc
  exact ⟨snap c, decodeEncodeRoundTrip F _ (wellFormedWith_snap hdom hfit), rfl, commandByte_snap c⟩

/-- R61: every layout's payload begins with the command byte. -/
theorem encodePayloadWith_eq_cons (F : Fonts) (i : Instr) :
    ∃ rest, encodePayloadWith F i = commandByte i :: rest := by
  cases i <;> exact ⟨_, rfl⟩

@[simp] theorem putColor_length (c : Color) : (putColor c).length = 2 := beBytes_length _ _

@[simp] theorem putBackground_length (bg : Option Color) : (putBackground bg).length = 2 := by
  cases bg with
  | none => rfl
  | some c => exact putColor_length c

@[simp] theorem putText_length (t : Text) : (putText t).length = t.length := List.length_map _

theorem wrap_length (payload : Bytes) : (wrap payload).length = payload.length + 5 := by
  simp [wrap, Config.suffix]

/-- R61: the total length in the opcode map is that of the layout. -/
theorem encodeWith_length (F : Fonts) (i : Instr) : (encodeWith F i).length = frameLength i := by
  rw [encodeWith, wrap_length]
  cases i with
  | drawString x y text font fg bg fixedWidth => simp [encodePayloadWith, frameLength]; omega
  | drawQr x y text pixelSize => simp [encodePayloadWith, frameLength]; omega
  | _ => simp [encodePayloadWith, frameLength]

/-- R45: a wrapped payload of at least one byte has the shape of a frame. -/
theorem framed_wrap_cons (b : Byte) (rest : Bytes) : framed (wrap (b :: rest)) = true := by
  have hlen : (wrap (b :: rest)).length - 4 = (Config.prefixByte :: b :: rest).length := by
    rw [wrap_length]
    simp
  have hdrop : (wrap (b :: rest)).drop ((wrap (b :: rest)).length - 4) = Config.suffix := by
    rw [hlen]
    exact List.drop_left
  rw [framed, hdrop, wrap_length]
  simp [wrap]

/-- Settles O5: shape and length are those of the layout's frame of `snap c`, which has the command byte and the length
of `c`. -/
theorem frameShapeAndLength : Obligations.FrameShapeAndLength := by
  intro F c frame henc
  obtain ⟨-, rfl⟩ := (encodeCommandWith_eq_ok_iff F c frame).mp henc
  obtain ⟨rest, hpayload⟩ := encodePayloadWith_eq_cons F (snap c)
  have hframe : encodeWith F (snap c) = wrap (commandByte c :: rest) := by
    rw [encodeWith, hpayload, commandByte_snap]
  exact ⟨⟨rest, hframe⟩, by rw [encodeWith_length, frameLength_snap], hframe ▸ framed_wrap_cons _ _⟩

end Sys2Proof.Machine
end

section
/-! R90 to R92, R100 to R107: the graphics and text commands on an idle encoder. The checks of `inDomain` and
`fieldsFit` are those the statements name, and the frame of `snap c` is written out. -/

namespace Sys2Proof.Machine

open Sys2Proof

section
variable {c : Instr} {s : State}

theorem exec_of_legal (hidle : s.txBusy = false) (hdom : inDomain c) (hfit : fieldsFit Config.fonts c) :
    exec c s = .next (s.load (encodeWith Config.fonts (snap c)) (replyExpected c)) :=
  exec_of_encode_ok hidle ((encodesAsSnap Config.fonts c).ok hdom hfit)

theorem exec_of_not_inDomain (hidle : s.txBusy = false) (hdom : ¬inDomain c) :
    exec c s = .next { s with eStat := .domainError } :=
  exec_of_encode_error hidle ((encodesAsSnap Config.fonts c).domain hdom)

theorem exec_of_not_fieldsFit (hidle : s.txBusy = false) (hdom : inDomain c) (hfit : ¬fieldsFit Config.fonts c) :
    exec c s = .next { s with eStat := .encodingError } :=
  exec_of_encode_error hidle ((encodesAsSnap Config.fonts c).encoding hdom hfit)

/-- Loading a frame that is written in another way. -/
theorem exec_of_legal_frame {frame : Bytes} (hidle : s.txBusy = false) (hdom : inDomain c)
    (hfit : fieldsFit Config.fonts c) (hframe : encodeWith Config.fonts (snap c) = frame) :
    exec c s = .next { s with txBuf := frame, txIdx := 0, txReply := replyExpected c, eStat := .ok } := by
  rw [exec_of_legal hidle hdom hfit, hframe]
  rfl

end

theorem beBytes_one (v : Nat) : beBytes 1 v = [BitVec.ofNat 8 v] := by
  simp [beBytes]

/-- R101, R107: the weight of the draw-background bit. -/
theorem background_weight (bg : Option Color) (w : Nat) :
    (if bg.isSome then w else 0) = if bg = none then 0 else w := by
  cases bg <;> rfl

/-- Settles O12: the colour is the only operand, and it is checked in its domain. -/
theorem clearFrameFrame : Obligations.ClearFrameFrame := by
  intro color s hidle
  refine ⟨fun hlegal => exec_of_legal_frame hidle hlegal trivial ?frame, fun hnot => exec_of_not_inDomain hidle hnot⟩
  case frame =>
    rw [encodeWith, snap, encodePayloadWith, putColor_snapColor]
    rfl

/-- Settles O13: the colour is the domain check, the four coordinates are the fields. -/
theorem drawLineFrame : Obligations.DrawLineFrame := by
  intro x0 y0 x1 y1 color s hidle
  refine ⟨fun ⟨hcolor, hfit⟩ => exec_of_legal_frame hidle hcolor hfit ?frame,
    fun hnot => exec_of_not_inDomain hidle hnot,
    fun ⟨hcolor, hnot⟩ => exec_of_not_fieldsFit hidle hcolor hnot⟩
  case frame =>
    rw [encodeWith, snap, encodePayloadWith, putColor_snapColor]
    rfl

/-- Settles O14: mode and colour are the domain checks, the four coordinates are the fields. -/
theorem drawRectFrame : Obligations.DrawRectFrame := by
  intro x0 y0 x1 y1 color fillMode s hidle
  refine ⟨fun ⟨hmode, hcolor, hfit⟩ => exec_of_legal_frame hidle ⟨hmode, hcolor⟩ hfit ?frame,
    fun hnot => exec_of_not_inDomain hidle hnot,
    fun ⟨hmode, hcolor, hnot⟩ => exec_of_not_fieldsFit hidle ⟨hmode, hcolor⟩ hnot⟩
  case frame =>
    rw [encodeWith, snap, encodePayloadWith, putColor_snapColor, beBytes_one]
    rfl

/-- Settles O16: font and colours are the domain checks, coordinates and text are the fields. -/
theorem drawStringFrame : Obligations.DrawStringFrame := by
  intro x y text font fg bg fixedWidth s hidle
  refine ⟨fun ⟨hfont, hfg, hbg, hfit⟩ => exec_of_legal_frame hidle ⟨hfont, hfg, hbg⟩ hfit ?frame,
    fun hnot => exec_of_not_inDomain hidle hnot,
    fun ⟨hfont, hfg, hbg, hnot⟩ => exec_of_not_fieldsFit hidle ⟨hfont, hfg, hbg⟩ hnot⟩
  case frame =>
    rw [encodeWith, snap, encodePayloadWith, putColor_snapColor, putBackground_snapColor, beBytes_one,
      Option.isSome_map, background_weight]
    rfl

theorem valueFits_iff (signed : Bool) (v : Int) : valueFits signed v ↔
    if signed = true then -2147483648 ≤ v ∧ v ≤ 2147483647 else 0 ≤ v ∧ v ≤ 4294967295 := by
  rw [valueFits]
  split <;> omega

/-- R65: the two ways to write the power of ten agree where the exponent is not negative. -/
theorem scaledValue_of_nonneg (value : NUM) {decimals : Int} (h : 0 ≤ decimals) :
    scaledValue value decimals = roundHaz (value * 10 ^ decimals.toNat) := by
  rw [scaledValue, pow10_of_nonneg decimals h]

/-- The field checks of draw_number in the terms of R104 to R106; a negative count of decimals fits no byte, so how the
power of ten is written there does not matter. -/
theorem fieldsFit_drawNumber_iff {x y : Int} {value : NUM} {font : Int} {fg : Color} {bg : Option Color} {signed : Bool}
    {digits decimals : Int} {leftAdjust zeroPad : Bool} {v xw : Int} (hv : v = roundHaz (value * 10 ^ decimals.toNat))
    (hxw : xw = if signed = true ∧ leftAdjust = false ∧ 0 ≤ v
      then x + Config.fonts.width (Fin.ofNat 10 font.toNat) else x) :
    fieldsFit Config.fonts (.drawNumber x y value font fg bg signed digits decimals leftAdjust zeroPad) ↔
      fitsU 1 digits ∧ fitsU 1 decimals ∧ fitsU 2 xw ∧ fitsU 2 y ∧
        (if signed = true then -2147483648 ≤ v ∧ v ≤ 2147483647 else 0 ≤ v ∧ v ≤ 4294967295) := by
  by_cases hneg : 0 ≤ decimals
  · have hshift : shiftedX Config.fonts x (Fin.ofNat 10 font.toNat) signed leftAdjust v = xw := hxw.symm
    rw [← scaledValue_of_nonneg value hneg] at hv
    rw [fieldsFit, ← hv, hshift, valueFits_iff]
  · have hnofit : ¬fitsU 1 decimals := fun h => hneg h.1
    simp only [fieldsFit, hnofit, false_and, and_false]

theorem frame_drawNumber (F : Fonts) (x y : Int) (value : NUM) (font : Int) (fg : Color) (bg : Option Color)
    (signed : Bool) (digits decimals : Int) (leftAdjust zeroPad : Bool) :
    encodeWith F (snap (.drawNumber x y value font fg bg signed digits decimals leftAdjust zeroPad)) =
      [0xAA, 0x14, BitVec.ofNat 8 ((if bg = none then 0 else 128) + (if signed = true then 64 else 0) +
          (if leftAdjust = true then 0 else 32) + (if zeroPad = true then 16 else 0) + font.toNat)] ++
        beBytes 2 (colorWord fg) ++ beBytes 2 (backgroundWord bg) ++
        [BitVec.ofNat 8 digits.toNat, BitVec.ofNat 8 decimals.toNat] ++
        beBytes 2 (shiftedX F x (Fin.ofNat 10 font.toNat) signed leftAdjust (scaledValue value decimals)).toNat ++
        beBytes 2 y.toNat ++ beBytes 4 (scaledValue value decimals % 2 ^ 32).toNat ++ [0xCC, 0x33, 0xC3, 0x3C] := by
  simp only [encodeWith, snap, encodePayloadWith, scaled_num, putColor_snapColor, putBackground_snapColor, beBytes_one,
    Option.isSome_map, background_weight]
  rfl

/-- Settles O17: font and colours are the domain checks; counts, shifted x, y and value are the fields. -/
theorem drawNumberFrame : Obligations.DrawNumberFrame := by
  intro x y value font fg bg signed digits decimals leftAdjust zeroPad s v xw hidle hv hxw
  refine ⟨fun ⟨hfont, hfg, hbg, hfit⟩ => ?loads, fun hnot => exec_of_not_inDomain hidle hnot,
    fun ⟨hfont, hfg, hbg, hnot⟩ => exec_of_not_fieldsFit hidle ⟨hfont, hfg, hbg⟩
      (mt (fieldsFit_drawNumber_iff hv hxw).mp hnot)⟩
  case loads =>
    refine exec_of_legal_frame hidle ⟨hfont, hfg, hbg⟩ ((fieldsFit_drawNumber_iff hv hxw).mpr hfit) ?_
    have hscaled : scaledValue value decimals = v := (scaledValue_of_nonneg value hfit.2.1.1).trans hv.symm
    have hshift : shiftedX Config.fonts x (Fin.ofNat 10 font.toNat) signed leftAdjust v = xw := hxw.symm
    rw [frame_drawNumber, hscaled, hshift]

end Sys2Proof.Machine
end

section
/-! R120, R127: where the suffix can stand. A body is suffix-free while it is taken; it completes with the byte that
puts the suffix at its end, and then it was suffix-free with all but that last byte of the suffix. -/

namespace Sys2Proof.Machine

open Sys2Proof

/-- The suffix without its last byte. -/
abbrev suffixStart : Bytes := [0xCC, 0x33, 0xC3]

theorem suffix_eq : Config.suffix = suffixStart ++ [0x3C] := rfl

theorem take_drop_of_eq_append {bs l r : Bytes} (h : bs = l ++ Config.suffix ++ r) :
    (bs.drop l.length).take 4 = Config.suffix := by
  rw [h, List.append_assoc, List.drop_left]
  rfl

/-- The suffix stands somewhere in `bs` exactly when one of its windows of four bytes is the suffix. -/
theorem suffix_infix_iff (bs : Bytes) : Config.suffix <:+: bs ↔ ∃ k, (bs.drop k).take 4 = Config.suffix := by
  constructor
  · rintro ⟨l, r, h⟩
    exact ⟨l.length, take_drop_of_eq_append h.symm⟩
  · rintro ⟨k, h⟩
    rw [← h]
    exact (List.take_prefix _ _).isInfix.trans (List.drop_suffix _ _).isInfix

theorem splitAtSuffix_eq_none_iff_not_infix (bs : Bytes) : splitAtSuffix bs = none ↔ ¬Config.suffix <:+: bs := by
  rw [splitAtSuffix_eq_none_iff, suffix_infix_iff, not_exists]

/-- The first suffix ends at the first place where what has been taken ends in it. -/
theorem splitAtSuffix_eq_some_iff_not_infix (bs body rem : Bytes) :
    splitAtSuffix bs = some (body, rem) ↔
      bs = body ++ Config.suffix ++ rem ∧ ¬Config.suffix <:+: body ++ suffixStart := by
  rw [splitAtSuffix_eq_some_iff]
  refine and_congr_right fun hbs => ?_
  have hbs' : bs = (body ++ suffixStart) ++ ([0x3C] ++ rem) := by rw [hbs, suffix_eq]; simp
  constructor
  · rintro hbefore ⟨l, r, hlr⟩
    have hlen := congrArg List.length hlr
    simp only [List.length_append, Config.suffix, List.length_cons, List.length_nil] at hlen
    refine hbefore l.length (by omega) (take_drop_of_eq_append (r := r ++ ([0x3C] ++ rem)) ?_)
    rw [hbs', ← hlr, List.append_assoc (l ++ Config.suffix)]
  · intro hfree k hk hwindow
    refine hfree ((suffix_infix_iff _).mpr ⟨k, ?_⟩)
    have hroom : 4 ≤ ((body ++ suffixStart).drop k).length := by
      simp only [List.length_drop, List.length_append, List.length_cons, List.length_nil]
      omega
    rw [hbs', List.drop_append_of_le_length (by simp; omega), List.take_append_of_le_length hroom] at hwindow
    exact hwindow

/-- R120 on a wrapped body: it is recognized whole exactly when the suffix does not end before its own. -/
theorem recognize_wrap (pre body later : Bytes) (hpre : Config.prefixByte ∉ pre)
    (hbody : ¬Config.suffix <:+: body ++ suffixStart) :
    recognize (pre ++ wrap body ++ later) = .complete pre [Config.prefixByte] body Config.suffix later := by
  refine (recognize_eq_complete_iff _ _ _ _ _ _).mpr ⟨rfl, rfl, body ++ Config.suffix ++ later, ?_, ?_⟩
  · rw [splitAtPrefix_eq_some_iff]
    exact ⟨by simp [wrap], hpre⟩
  · exact (splitAtSuffix_eq_some_iff_not_infix _ _ _).mpr ⟨rfl, hbody⟩

end Sys2Proof.Machine
end

section
/-! R186: the suffix inside a payload. -/

namespace Sys2Proof.Machine

open Sys2Proof

/-- A payload of at most four bytes that does not open like the suffix holds no suffix, not even one that runs on into
the frame's own: that one would have `CC` at a later place. -/
theorem suffix_not_early {payload : Bytes} (hlen : payload.length ≤ 4) (hhead : payload.head? ≠ some 0xCC) :
    ¬Config.suffix <:+: payload ++ suffixStart := by
  rintro ⟨l, r, hlr⟩
  have hsum := congrArg List.length hlr
  simp only [List.length_append, Config.suffix, List.length_cons, List.length_nil] at hsum
  have hbyte : ∀ j < 4, (payload ++ suffixStart)[l.length + j]? = Config.suffix[j]? := by
    intro j hj
    rw [← hlr, List.append_assoc, List.getElem?_append_right (by omega), Nat.add_sub_cancel_left,
      List.getElem?_append_left hj]
  rcases Nat.eq_zero_or_pos l.length with hzero | hpos
  · have hfirst := hbyte 0 (by decide)
    have hne : 0 < payload.length := by omega
    rw [hzero, List.getElem?_append_left hne] at hfirst
    exact hhead (List.head?_eq_getElem?.trans hfirst)
  · have hopens := hbyte (payload.length - l.length) (by omega)
    rw [show l.length + (payload.length - l.length) = payload.length by omega,
      List.getElem?_append_right le_rfl, Nat.sub_self] at hopens
    have hplace : payload.length - l.length = 1 ∨ payload.length - l.length = 2 ∨ payload.length - l.length = 3 := by
      omega
    rcases hplace with h | h | h <;> rw [h] at hopens <;> exact absurd hopens (by decide)

theorem commandByte_ne_suffixHead (c : Instr) : commandByte c ≠ 0xCC := by
  cases c <;> exact of_decide_eq_true rfl

/-- Settles O43: the payloads of the six commands have at most four bytes, by the frame lengths of R61, and no command
byte is `CC`. -/
theorem shortFramesNeverCut : Obligations.ShortFramesNeverCut := by
  intro c frame later hsix henc
  obtain ⟨-, hlength, -⟩ := frameShapeAndLength Config.fonts c frame henc
  obtain ⟨⟨rest, rfl⟩, -, -⟩ := frameShapeAndLength Config.fonts c frame henc
  have hshort : frameLength c ≤ 9 := by
    cases c with
    | drawLine => exact hsix.elim
    | drawRect => exact hsix.elim
    | drawString => exact hsix.elim
    | drawNumber => exact hsix.elim
    | drawQr => exact hsix.elim
    | _ => simp [frameLength]
  rw [wrap_length] at hlength
  have hfree := suffix_not_early (payload := commandByte c :: rest) (by omega)
    (by simpa using commandByte_ne_suffixHead c)
  exact ⟨_, rfl, recognize_wrap [] _ later List.not_mem_nil hfree⟩

/-- Settles O44: the two coordinates are the four suffix bytes, right after the command byte, and the operands are
otherwise only asked to fit their fields. -/
theorem suffixHazardOfDrawQr : Obligations.SuffixHazardOfDrawQr := by
  intro text pixelSize
  have hx : fitsU 2 0xCC33 := by decide
  have hy : fitsU 2 0xC33C := by decide
  refine ⟨fun ⟨hsize, htext⟩ => ⟨_, encodeCommand_drawQr_ok hx hy hsize htext⟩, fun frame henc => ?_⟩
  obtain ⟨⟨-, -, -, hsize, htext⟩, -⟩ := (encodeCommandWith_eq_ok_iff Config.fonts _ frame).mp henc
  obtain rfl := Except.ok.inj ((encodeCommand_drawQr_ok hx hy hsize htext).symm.trans henc)
  exact recognize_wrap [] [0x21] _ List.not_mem_nil (suffix_not_early (by decide) (by decide))

end Sys2Proof.Machine
end

section
/-! R130, R131: the decoder as a run. In HUNT it collects what is no prefix byte, in BODY what is suffix-free; these two
runs, put together at the prefix byte, are what both answers of `recognize` are about. -/

namespace Sys2Proof.Machine

open Sys2Proof

theorem State.rxBytes_add (m n : Nat) (s : State) :
    State.rxBytes (m + n) s = State.rxBytes n (State.rxBytes m s) := by
  induction m generalizing s with
  | zero => rw [Nat.zero_add]; rfl
  | succ m ih => rw [Nat.succ_add]; exact ih s.rxByte

theorem State.rxByte_of_idle {s : State} (h : s.rxState = .idle) : s.rxByte = s := by
  simpa [h] using s.rxByte_cases

theorem State.rxBytes_of_idle {s : State} (h : s.rxState = .idle) (n : Nat) : State.rxBytes n s = s := by
  induction n with
  | zero => rfl
  | succ n ih => rw [State.rxBytes, State.rxByte_of_idle h, ih]

theorem State.rxBytes_of_hunt {s : State} {t later : Bytes} (hstate : s.rxState = .hunt) (hrx : s.rx = t ++ later)
    (hnone : Config.prefixByte ∉ t) :
    State.rxBytes t.length s = { s with rx := later, rxPre := s.rxPre ++ t } := by
  induction t generalizing s with
  | nil =>
    have hlater : s.rx = later := hrx
    simp [State.rxBytes, ← hlater]
  | cons b t ih =>
    rw [List.mem_cons, not_or] at hnone
    obtain ⟨hb, ht⟩ := hnone
    rcases State.rxByte_of_hunt hstate hrx with ⟨hprefix, -⟩ | ⟨-, hstep⟩
    · exact absurd hprefix.symm hb
    · rw [List.length_cons, State.rxBytes, hstep, ih (by exact hstate) rfl ht]
      simp

theorem State.rxBytes_of_body {s : State} {t later : Bytes} (hstate : s.rxState = .body) (hrx : s.rx = t ++ later)
    (hfree : ¬Config.suffix <:+: s.rxBody ++ t) :
    State.rxBytes t.length s = { s with rx := later, rxBody := s.rxBody ++ t } := by
  induction t generalizing s with
  | nil =>
    have hlater : s.rx = later := hrx
    simp [State.rxBytes, ← hlater]
  | cons b t ih =>
    rcases State.rxByte_of_body hstate hrx with ⟨body, hsplit, -⟩ | ⟨-, hstep⟩
    · refine absurd ⟨body, t, ?_⟩ hfree
      rw [← hsplit]
      simp
    · rw [List.length_cons, State.rxBytes, hstep, ih (by exact hstate) rfl (by simpa using hfree)]
      simp

/-- A fresh read that has been offered a prefix byte and then no suffix. -/
theorem State.rxBytes_of_armed {s : State} {pre u later : Bytes} (hstate : s.rxState = .hunt) (hpreEmpty : s.rxPre = [])
    (hbodyEmpty : s.rxBody = []) (hrx : s.rx = pre ++ Config.prefixByte :: u ++ later)
    (hpre : Config.prefixByte ∉ pre) (hfree : ¬Config.suffix <:+: u) :
    State.rxBytes (pre.length + (1 + u.length)) s =
      { s with rx := later, rxState := .body, rxPre := pre, rxBody := u } := by
  have hhunt := State.rxBytes_of_hunt (later := Config.prefixByte :: (u ++ later)) hstate (by rw [hrx]; simp) hpre
  have hprefix : ∀ s' : State, s'.rxState = .hunt → s'.rx = Config.prefixByte :: (u ++ later) →
      State.rxBytes 1 s' = { s' with rx := u ++ later, rxState := .body } := by
    intro s' hstate' hrx'
    rcases State.rxByte_of_hunt hstate' hrx' with ⟨-, hstep⟩ | ⟨hne, -⟩
    · exact hstep
    · exact absurd rfl hne
  rw [State.rxBytes_add, hhunt, State.rxBytes_add, hprefix _ (by exact hstate) rfl,
    State.rxBytes_of_body (later := later) rfl rfl (by simpa [hbodyEmpty] using hfree)]
  simp [hpreEmpty, hbodyEmpty]

/-- The frame is complete when the last suffix byte is taken. -/
theorem State.rxBytes_of_complete {s : State} {pre body later : Bytes} (hstate : s.rxState = .hunt)
    (hpreEmpty : s.rxPre = []) (hbodyEmpty : s.rxBody = []) (hrx : s.rx = pre ++ wrap body ++ later)
    (hpre : Config.prefixByte ∉ pre) (hfree : ¬Config.suffix <:+: body ++ suffixStart) :
    State.rxBytes (pre.length + (1 + (body ++ suffixStart).length) + 1) s =
      { s with rx := later, rxRes := .frame pre body, rxPre := [], rxBody := [], rxState := .idle } := by
  have harmed := State.rxBytes_of_armed (later := 0x3C :: later) hstate hpreEmpty hbodyEmpty
    (by rw [hrx, wrap, suffix_eq]; simp) hpre hfree
  rw [State.rxBytes_add, harmed]
  rcases State.rxByte_of_body (s := { s with
      rx := 0x3C :: later, rxState := .body, rxPre := pre, rxBody := body ++ suffixStart }) rfl rfl with
    ⟨body', hsplit, hstep⟩ | ⟨hnosplit, -⟩
  · obtain rfl : body = body' := List.append_cancel_right ((List.append_assoc _ _ _).symm.trans hsplit)
    exact hstep
  · exact absurd (List.append_assoc _ _ _) (hnosplit body)

/-- Settles O40: the two ways to be incomplete leave DEC in HUNT or in BODY with all of `t` taken; a complete `t` is
taken up to the end of its first suffix, and then DEC is idle. -/
theorem decoderAgreesWithRecognize : Obligations.DecoderAgreesWithRecognize := by
  intro s t later hstate hpreEmpty hbodyEmpty hrx
  refine ⟨fun hrec => ?incomplete, fun pre head body tail rem hrec => ?complete⟩
  case incomplete =>
    rcases (recognize_eq_incomplete_iff t).mp hrec with hnone | ⟨pre, rest, hpre, hsuf⟩
    · have hmem : (0xAA : Byte) ∉ t := (splitAtPrefix_eq_none_iff t).mp hnone
      rw [State.rxBytes_of_hunt hstate hrx hmem]
      exact ⟨rfl, rfl, iff_of_true hstate hmem, iff_of_false (by simp [hstate]) hmem⟩
    · obtain ⟨rfl, hmem⟩ := (splitAtPrefix_eq_some_iff t pre rest).mp hpre
      have hrun := State.rxBytes_of_armed hstate hpreEmpty hbodyEmpty hrx hmem
        ((splitAtSuffix_eq_none_iff_not_infix rest).mp hsuf)
      have hlen : (pre ++ Config.prefixByte :: rest).length = pre.length + (1 + rest.length) := by
        simp only [List.length_append, List.length_cons]
        omega
      have htaken : (0xAA : Byte) ∈ pre ++ Config.prefixByte :: rest := List.mem_append_right _ List.mem_cons_self
      rw [hlen, hrun]
      exact ⟨rfl, rfl, iff_of_false (by simp) (not_not.mpr htaken), iff_of_true rfl htaken⟩
  case complete =>
    obtain ⟨-, -, rest, hpre, hsuf⟩ := (recognize_eq_complete_iff t pre head body tail rem).mp hrec
    obtain ⟨rfl, hmem⟩ := (splitAtPrefix_eq_some_iff t pre rest).mp hpre
    obtain ⟨rfl, hfree⟩ := (splitAtSuffix_eq_some_iff_not_infix rest body rem).mp hsuf
    have hrun := State.rxBytes_of_complete (later := rem ++ later) hstate hpreEmpty hbodyEmpty
      (by rw [hrx, wrap]; simp) hmem hfree
    have hlen : (pre ++ Config.prefixByte :: (body ++ Config.suffix ++ rem)).length =
        pre.length + (1 + (body ++ suffixStart).length) + 1 + rem.length := by
      simp only [List.length_append, List.length_cons, List.length_nil, Config.suffix]
      omega
    rw [hlen, Nat.add_sub_cancel, State.rxBytes_add _ rem.length, hrun]
    exact ⟨rfl, State.rxBytes_of_idle rfl _⟩

end Sys2Proof.Machine
end

section
/-! R10: which part of the state an agent's step writes, and on which part it depends. ENC's steps write the encoder's
fields and `TX`, DEC's steps the decoder's fields and `RX`; a step of one does not see what the other has written, and
so they commute (R167). -/

namespace Sys2Proof.Machine

open Sys2Proof

/-- `s` with ENC's fields and `TX` as in `t`. -/
def State.withEncoder (s t : State) : State :=
  { s with txBuf := t.txBuf, txIdx := t.txIdx, txReply := t.txReply, eStat := t.eStat, tx := t.tx }

/-- `s` with DEC's fields and `RX` as in `t`. -/
def State.withDecoder (s t : State) : State :=
  { s with rxState := t.rxState, rxPre := t.rxPre, rxBody := t.rxBody, rxRes := t.rxRes, rx := t.rx }

/-- A step that writes ENC's part only and does not depend on DEC's. -/
structure IsEncoderStep (f : State → State) : Prop where
  writes : ∀ s, f s = s.withEncoder (f s)
  ignores : ∀ s t, f (s.withDecoder t) = (f s).withDecoder t

/-- A step that writes DEC's part only and does not depend on ENC's. -/
structure IsDecoderStep (f : State → State) : Prop where
  writes : ∀ s, f s = s.withDecoder (f s)
  ignores : ∀ s t, f (s.withEncoder t) = (f s).withEncoder t

/-- R167: each of the two writes its own part, whichever comes first. -/
theorem IsEncoderStep.comm {enc dec : State → State} (henc : IsEncoderStep enc) (hdec : IsDecoderStep dec) (s : State) :
    dec (enc s) = enc (dec s) := by
  have hleft : dec (enc s) = (s.withDecoder (dec s)).withEncoder (enc s) := by
    rw [henc.writes s, hdec.ignores, ← hdec.writes s, ← henc.writes s]
  have hright : enc (dec s) = (s.withEncoder (enc s)).withDecoder (dec s) := by
    rw [hdec.writes s, henc.ignores, ← henc.writes s, ← hdec.writes s]
  rw [hleft, hright]
  rfl

theorem State.emit_isEncoderStep : IsEncoderStep State.emit where
  writes s := by
    rcases s.emit_cases with ⟨-, h⟩ | ⟨-, b, -, h⟩ <;> rw [h] <;> rfl
  ignores s t := by
    cases hb : s.txBuf[s.txIdx]? <;> simp [State.emit, State.withDecoder, hb, State.txPut]

theorem State.issue_isEncoderStep (encoded : Except EncErr Bytes) (reply : Bool) :
    IsEncoderStep (State.issue · encoded reply) where
  writes s := by
    rcases s.issue_cases encoded reply with ⟨-, h⟩ | ⟨-, frame, -, h⟩ | ⟨-, e, -, h⟩ <;> rw [h] <;> rfl
  ignores s t := by
    have hbusy : (s.withDecoder t).txBusy = s.txBusy := State.txBusy_congr rfl rfl
    cases hb : s.txBusy with
    | true => rw [State.issue_busy _ _ _ (hbusy.trans hb), State.issue_busy _ _ _ hb]
    | false =>
      cases encoded with
      | ok frame => rw [State.issue_ok _ _ _ (hbusy.trans hb), State.issue_ok _ _ _ hb]; rfl
      | error e => rw [State.issue_error _ _ _ (hbusy.trans hb), State.issue_error _ _ _ hb]; rfl

theorem State.rxByte_isDecoderStep : IsDecoderStep State.rxByte where
  writes s := by
    rcases s.rxByte_cases with ⟨-, b, rest, -, ⟨-, h⟩ | ⟨-, h⟩⟩ | ⟨-, b, rest, -, ⟨-, h⟩ | ⟨-, h⟩⟩ | ⟨-, h⟩ <;>
      rw [h] <;> rfl
  ignores s t := by
    cases hstate : s.rxState with
    | idle => simp [State.rxByte, State.withEncoder, hstate]
    | hunt =>
      cases hrx : s.rx with
      | nil => simp [State.rxByte, State.withEncoder, hstate, hrx]
      | cons b rest =>
        simp only [State.rxByte, State.withEncoder, hstate, hrx, State.huntByte]
        split <;> rfl
    | body =>
      cases hrx : s.rx with
      | nil => simp [State.rxByte, State.withEncoder, hstate, hrx]
      | cons b rest =>
        simp only [State.rxByte, State.withEncoder, hstate, hrx, State.bodyByte]
        split <;> rfl

theorem State.rxArm_isDecoderStep : IsDecoderStep State.rxArm where
  writes s := by
    rcases s.rxArm_cases with ⟨-, h⟩ | ⟨-, h⟩ <;> rw [h] <;> rfl
  ignores s t := by
    by_cases hstate : s.rxState = .idle <;> simp [State.rxArm, State.withEncoder, hstate]

theorem State.rxTimeout_isDecoderStep : IsDecoderStep State.rxTimeout where
  writes s := by
    rcases s.rxTimeout_cases with ⟨-, h⟩ | ⟨-, h⟩ <;> rw [h] <;> rfl
  ignores s t := by
    cases hstate : s.rxState <;> simp [State.rxTimeout, State.withEncoder, hstate]

/-- Settles O48: the six pairs are each an encoder step and a decoder step. -/
theorem agentStepsCommute : Obligations.AgentStepsCommute := by
  intro s encoded reply
  have hissue := State.issue_isEncoderStep encoded reply
  exact ⟨State.emit_isEncoderStep.comm State.rxByte_isDecoderStep s,
    State.emit_isEncoderStep.comm State.rxArm_isDecoderStep s,
    State.emit_isEncoderStep.comm State.rxTimeout_isDecoderStep s,
    hissue.comm State.rxByte_isDecoderStep s, hissue.comm State.rxArm_isDecoderStep s,
    hissue.comm State.rxTimeout_isDecoderStep s⟩

/-- An `issue` move writes ENC's part, and takes the command off the port. -/
theorem State.issueNext_writes {s s' : State} (h : s.issueNext = .next s') :
    s' = { s.withEncoder s' with cmd := s'.cmd } := by
  rcases s.issueNext_cases with ⟨-, hsame⟩ | ⟨-, p, rest, -, hcases⟩
  · obtain rfl := Host.Outcome.next.inj (hsame.symm.trans h)
    rfl
  · rcases hcases with ⟨why, -, hrefused⟩ | ⟨i, -, -, hexec⟩ | ⟨i, -, -, hexec⟩
    · rw [hrefused] at h
      contradiction
    all_goals
      rw [hexec, exec_eq_issue] at h
      obtain rfl := Host.Outcome.next.inj h
      exact (State.issue_isEncoderStep _ _).writes _ ▸ rfl

/-- The serving of a waiting read writes DEC's part, and takes the request off the port. -/
theorem State.serveRead_writes (s : State) :
    s.serveRead = { s.withDecoder s.serveRead with arms := s.serveRead.arms } := by
  rcases s.serveRead_cases with ⟨-, -, -, h⟩ | ⟨-, h⟩ <;> rw [h] <;> rfl

/-- Settles O47: what a step of one agent writes leaves the other's part as it is. -/
theorem agentsShareNoState : Obligations.AgentsShareNoState := by
  intro s s'
  constructor
  · rintro (hissue | hemit)
    · rw [State.issueNext_writes hissue]
      exact ⟨rfl, rfl, rfl, rfl, rfl⟩
    · obtain rfl := Host.Outcome.next.inj hemit
      rw [State.emit_isEncoderStep.writes s]
      exact ⟨rfl, rfl, rfl, rfl, rfl⟩
  · rintro (harm | hbyte | htimeout)
    · obtain rfl := Host.Outcome.next.inj harm
      rw [s.serveRead_writes]
      exact ⟨rfl, rfl, rfl, rfl, rfl⟩
    · obtain rfl := Host.Outcome.next.inj hbyte
      rw [State.rxByte_isDecoderStep.writes s]
      exact ⟨rfl, rfl, rfl, rfl, rfl⟩
    · obtain rfl := Host.Outcome.next.inj htimeout
      rw [State.rxTimeout_isDecoderStep.writes s]
      exact ⟨rfl, rfl, rfl, rfl, rfl⟩

end Sys2Proof.Machine
end

section
/-! One move at a time. A step is one move, from the schedule or the block's own (logs 3, 4); for each kind of move,
once, which part of the state it leaves as it is. -/

namespace Sys2Proof.Machine

open Sys2Proof

theorem step_of_sched_cons {s : State} {m : Move} {ms : List Move} (h : s.sched = m :: ms) :
    step s = { s with sched := ms }.act m := by
  simp [step, State.nextMove, h]

theorem step_of_sched_nil {s : State} (h : s.sched = []) : step s = s.act s.ownMove := by
  simp [step, State.nextMove, h]

/-- A move of the environment of file 45: of the driver's callers, of the scope, of the worker, or a port error. -/
def Move.isEnvironment : Move → Bool
  | .driverOp _ => true
  | .driverRead => true
  | .terminate => true
  | .takeReply => true
  | .scopeEnter => true
  | .scopeExit _ => true
  | .scopeJoin => true
  | .workerStep => true
  | .portError => true
  | _ => false

/-- Log 4: left alone, the block takes a step of its own. -/
theorem State.ownMove_cases (s : State) :
    s.ownMove = .emit ∨ s.ownMove = .issue ∨ s.ownMove = .rxArm ∨ s.ownMove = .rxByte ∨ s.ownMove = .readOutputs := by
  unfold State.ownMove
  split_ifs <;> simp

/-- A step, taken apart: its move, and the schedule that is left. -/
theorem exists_move_of_step {s s' : State} (h : step s = .next s') :
    ∃ m ms, { s with sched := ms }.act m = .next s' ∧
      (s.sched = m :: ms ∨ s.sched = [] ∧ ms = [] ∧ m = s.ownMove) := by
  cases hs : s.sched with
  | nil =>
    have hsame : { s with sched := [] } = s := by rw [← hs]
    exact ⟨s.ownMove, [], by rw [hsame, ← step_of_sched_nil hs, h], .inr ⟨rfl, rfl, rfl⟩⟩
  | cons m ms => exact ⟨m, ms, by rw [← step_of_sched_cons hs, h], .inl rfl⟩

/-- A move of the environment happens only where the schedule says. -/
theorem sched_head_of_environment {s : State} {m : Move} {ms : List Move}
    (h : s.sched = m :: ms ∨ s.sched = [] ∧ ms = [] ∧ m = s.ownMove) (hm : m.isEnvironment = true) :
    s.sched.head? = some m := by
  rcases h with hs | ⟨-, -, rfl⟩
  · rw [hs]; rfl
  · rcases s.ownMove_cases with h | h | h | h | h <;> rw [h] at hm <;> contradiction

/-- `s` with the environment as in `t`. -/
def State.withEnvironment (s t : State) : State :=
  { s with queue := t.queue, worker := t.worker, replies := t.replies, driver := t.driver }

/-- `s` with queue, channel and driver as in `t`: the environment without the worker. -/
def State.withCallers (s t : State) : State := { s with queue := t.queue, replies := t.replies, driver := t.driver }

theorem State.driverOp_writes (s : State) (c : Instr) : s.driverOp c = s.withCallers (s.driverOp c) := by
  rcases s.driverOp_cases c with ⟨-, h⟩ | ⟨-, -, h⟩ | ⟨-, -, e, -, h⟩ | ⟨-, -, frame, -, h⟩ <;> rw [h] <;> rfl

theorem State.driverRead_cases (s : State) :
    (0 < s.driver.owedReads ∧ s.driverRead = { s with
      queue := s.queue.putReadRequest, driver := { s.driver with owedReads := s.driver.owedReads - 1 } }) ∨
    (s.driver.owedReads = 0 ∧ s.driverRead = s) := by
  rcases Nat.eq_zero_or_pos s.driver.owedReads with h | h
  · exact .inr ⟨h, by simp [State.driverRead, h]⟩
  · exact .inl ⟨h, by simp [State.driverRead, h]⟩

theorem State.driverRead_writes (s : State) : s.driverRead = s.withCallers s.driverRead := by
  rcases s.driverRead_cases with ⟨-, h⟩ | ⟨-, h⟩ <;> rw [h] <;> rfl

theorem State.terminateCall_writes (s : State) : s.terminateCall = s.withCallers s.terminateCall := by
  rcases s.terminateCall_cases with ⟨-, h⟩ | ⟨-, h⟩ <;> rw [h] <;> rfl

theorem State.takeReply_writes (s : State) : s.takeReply = s.withCallers s.takeReply := by
  rcases s.takeReply_cases with ⟨-, h⟩ | ⟨r, rest, -, h⟩ <;> rw [h] <;> rfl

theorem State.scopeEnter_writes (s : State) : s.scopeEnter = s.withEnvironment s.scopeEnter := by
  rcases s.scopeEnter_cases with ⟨-, h⟩ | ⟨-, h⟩
  · rcases s.workerStart_cases with ⟨-, hstart⟩ | ⟨-, hstart⟩ <;> rw [h, hstart] <;> rfl
  · rw [h]; rfl

theorem State.scopeExit_writes (s : State) : s.scopeExit = s.withCallers s.scopeExit := by
  rcases s.scopeExit_cases with ⟨-, h⟩ | ⟨-, h⟩ <;> rw [h] <;> rfl

theorem State.scopeJoin_writes (s : State) : s.scopeJoin = s.withCallers s.scopeJoin := by
  rcases s.scopeJoin_cases with ⟨-, -, h⟩ | ⟨-, h⟩ <;> rw [h] <;> rfl

theorem State.portError_writes (s : State) : s.portError = s.withEnvironment s.portError := by
  rcases s.portError_cases with ⟨-, h⟩ | ⟨-, h⟩ <;> rw [h] <;> rfl

theorem State.eq_withEnvironment_of_callers {s s' : State} (h : s' = s.withCallers s') : s' = s.withEnvironment s' := by
  rw [h]; rfl

theorem State.worker_eq_of_callers {s s' : State} (h : s' = s.withCallers s') : s'.worker = s.worker := by
  rw [h]; rfl

/-- R5: all moves of the environment but the worker's stay outside the block and its ports. -/
theorem act_writes_environment {s s' : State} {m : Move} (hm : m.isEnvironment = true) (hworker : m ≠ .workerStep)
    (h : s.act m = .next s') : s' = s.withEnvironment s' := by
  cases m with
  | driverOp c => exact Host.Outcome.next.inj h ▸ State.eq_withEnvironment_of_callers (s.driverOp_writes c)
  | driverRead => exact Host.Outcome.next.inj h ▸ State.eq_withEnvironment_of_callers s.driverRead_writes
  | terminate => exact Host.Outcome.next.inj h ▸ State.eq_withEnvironment_of_callers s.terminateCall_writes
  | takeReply => exact Host.Outcome.next.inj h ▸ State.eq_withEnvironment_of_callers s.takeReply_writes
  | scopeEnter => exact Host.Outcome.next.inj h ▸ s.scopeEnter_writes
  | scopeExit path => exact Host.Outcome.next.inj h ▸ State.eq_withEnvironment_of_callers s.scopeExit_writes
  | scopeJoin => exact Host.Outcome.next.inj h ▸ State.eq_withEnvironment_of_callers s.scopeJoin_writes
  | workerStep => contradiction
  | portError => exact Host.Outcome.next.inj h ▸ s.portError_writes
  | _ => contradiction

theorem State.lineTake_writes (s : State) :
    s.lineTake = { s with tx := s.lineTake.tx, txTaken := s.lineTake.txTaken } := by
  rcases s.lineTake_cases with ⟨-, h⟩ | ⟨b, rest, -, h⟩ <;> rw [h]

/-- R5: the block, the host and the line leave the environment as it is. -/
theorem act_keeps_environment {s s' : State} {m : Move} (hm : m.isEnvironment = false) (h : s.act m = .next s') :
    s' = s'.withEnvironment s := by
  cases m with
  | issue => rw [State.issueNext_writes h]; rfl
  | emit => rw [← Host.Outcome.next.inj h, State.emit_isEncoderStep.writes s]; rfl
  | rxArm => rw [← Host.Outcome.next.inj h, s.serveRead_writes]; rfl
  | rxByte => rw [← Host.Outcome.next.inj h, State.rxByte_isDecoderStep.writes s]; rfl
  | rxTimeout => rw [← Host.Outcome.next.inj h, State.rxTimeout_isDecoderStep.writes s]; rfl
  | lineTake => rw [← Host.Outcome.next.inj h, s.lineTake_writes]; rfl
  | reset => exact Host.Outcome.next.inj h ▸ rfl
  | present p => exact Host.Outcome.next.inj h ▸ rfl
  | requestRead => exact Host.Outcome.next.inj h ▸ rfl
  | readOutputs => exact Host.Outcome.next.inj h ▸ rfl
  | query q => exact Host.Outcome.next.inj h ▸ rfl
  | lineAppend b => exact Host.Outcome.next.inj h ▸ rfl
  | _ => contradiction

/-- What a worker's step can write: the environment, and where it begins an item the block's part for it. -/
theorem State.workerStep_cases (s : State) :
    (∃ frame, s.worker.phase = .running ∧ s.worker.serving = .toWrite frame ∧ s.quiescent = true ∧ s.workerStep =
      { s.load frame (frameExpectsReply frame) with worker := { s.worker with serving := .writing } }) ∨
    (s.worker.phase = .running ∧ s.worker.serving = .toRead ∧ s.quiescent = true ∧
      s.workerStep = { s.rxArm with worker := { s.worker with serving := .reading } }) ∨
    s.workerStep = s.withEnvironment s.workerStep := by
  cases hphase : s.worker.phase with
  | idle => exact .inr (.inr (by simp only [State.workerStep, hphase]; rfl))
  | draining => exact .inr (.inr (by simp only [State.workerStep, hphase]; rfl))
  | stopped => exact .inr (.inr (by simp only [State.workerStep, hphase]; rfl))
  | running =>
    have hstep : s.workerStep = s.workerLoop := by simp only [State.workerStep, hphase]
    rw [hstep]
    rcases s.workerLoop_cases with ⟨-, item, q, -, h⟩ | ⟨frame, hitem, hquiet, h⟩ | ⟨-, -, h⟩ | ⟨hitem, hquiet, h⟩ |
      ⟨-, -, h⟩ | h
    · exact .inr (.inr (by rw [h]; cases item <;> rfl))
    · exact .inl ⟨frame, rfl, hitem, hquiet, h⟩
    · exact .inr (.inr (by rw [h]; rfl))
    · exact .inr (.inl ⟨rfl, hitem, hquiet, h⟩)
    · exact .inr (.inr (by rw [h]; rfl))
    · exact .inr (.inr (by rw [h]; rfl))

end Sys2Proof.Machine
end

section
/-! The steps of the block and the host's and the line's moves, one statement per move; and what a step does with the
command at the front of the port. -/

namespace Sys2Proof.Machine

open Sys2Proof

/-- Settles O28: the two clauses are the two cases of `emit`. -/
theorem emitStep : Obligations.EmitStep := by
  intro s
  rcases s.emit_cases with ⟨hidle, hstep⟩ | ⟨hbusy, b, hb, hstep⟩
  · rw [State.txBusy_eq_false_iff] at hidle
    exact ⟨fun h => absurd h hidle.not_gt, fun _ => congrArg Host.Outcome.next hstep⟩
  · rw [State.txBusy_iff] at hbusy
    refine ⟨fun h => ?_, fun h => absurd h hbusy.not_ge⟩
    obtain rfl : s.txBuf[s.txIdx] = b := List.getElem_eq_iff h |>.mpr hb
    exact congrArg Host.Outcome.next hstep

/-- Settles O33: `resetBlock` writes the eight fields and names no other. -/
theorem resetEvent : Obligations.ResetEvent := fun _ => rfl

/-- Settles O35: the two clauses are the two cases of the serving of a request. -/
theorem waitingReadIsServed : Obligations.WaitingReadIsServed := by
  intro s
  rcases s.serveRead_cases with ⟨howned, hidle, harms, hstep⟩ | ⟨hnot, hstep⟩
  · refine ⟨fun _ _ _ => congrArg Host.Outcome.next hstep, fun hwaits => ?_⟩
    rcases hwaits with hbusy | hnone | hphase
    · exact absurd hidle hbusy
    · omega
    · rw [s.portOwned_iff.mpr hphase] at howned
      contradiction
  · exact ⟨fun howned hidle harms => absurd ⟨howned, hidle, harms⟩ hnot, fun _ => congrArg Host.Outcome.next hstep⟩

/-- Settles O38: neither of the two taking cases of `rx_byte` is met. -/
theorem idleDecoderTakesNothing : Obligations.IdleDecoderTakesNothing := by
  intro s hnone
  have hsame : s.rxByte = s := by
    rcases s.rxByte_cases with ⟨hstate, b, rest, hrx, -⟩ | ⟨hstate, b, rest, hrx, -⟩ | ⟨-, hsame⟩
    · simp [hstate, hrx] at hnone
    · simp [hstate, hrx] at hnone
    · exact hsame
  exact congrArg Host.Outcome.next hsame

/-- Settles O52: every one of these moves is its own definition; only the removal of a byte has two cases. -/
theorem hostAndLineMoves : Obligations.HostAndLineMoves := by
  intro s
  refine ⟨fun _ => rfl, fun b rest htx => ?takes, fun htx => ?none, fun _ => rfl, rfl, fun _ => rfl, rfl⟩
  case takes =>
    rcases s.lineTake_cases with ⟨hnil, -⟩ | ⟨b', rest', htx', hstep⟩
    · simp [htx] at hnil
    · obtain ⟨rfl, rfl⟩ := List.cons.inj (htx.symm.trans htx')
      exact congrArg Host.Outcome.next hstep
  case none =>
    rcases s.lineTake_cases with ⟨-, hstep⟩ | ⟨b', rest', htx', -⟩
    · exact congrArg Host.Outcome.next hstep
    · simp [htx] at htx'

section
variable {s : State} {p : Presented} {rest : List Presented} {c : Instr}

theorem State.issueNext_of_waits (hwaits : s.txBusy = true ∨ s.portOwned = true) (hcmd : s.cmd = p :: rest)
    (hp : p.command = .ok c) : s.issueNext = .next s := by
  cases howned : s.portOwned with
  | true => simp [State.issueNext, hcmd, howned]
  | false =>
    have hbusy : s.txBusy = true := by simpa [howned] using hwaits
    simp [State.issueNext, hcmd, howned, hp, hbusy, exec_of_txBusy]

theorem State.issueNext_of_idle (howned : s.portOwned = false) (hidle : s.txBusy = false) (hcmd : s.cmd = p :: rest)
    (hp : p.command = .ok c) : s.issueNext = exec c { s with cmd := rest } := by
  simp [State.issueNext, hcmd, howned, hp, hidle]

theorem State.issueNext_of_error {why : DecodeError} (howned : s.portOwned = false) (hcmd : s.cmd = p :: rest)
    (hp : p.command = .error why) : s.issueNext = .refused (.notACommand why) := by
  simp [State.issueNext, hcmd, howned, hp]

end

theorem State.ownMove_of_busy {s : State} (h : s.txBusy = true) : s.ownMove = .emit := by
  rw [State.ownMove, if_pos h]

theorem State.ownMove_of_command {s : State} (hidle : s.txBusy = false) (howned : s.portOwned = false)
    (hcmd : s.cmd ≠ []) : s.ownMove = .issue := by
  rw [State.ownMove, if_neg (by simp [hidle]), if_pos ⟨howned, hcmd⟩]

/-- Settles O49: the step is an `issue` move, scheduled or the block's own, and the command at the front of the port is
what the boundary reads there. -/
theorem stepRunsDecodedCommand : Obligations.StepRunsDecodedCommand := by
  intro s bytes c rest ms
  refine ⟨fun hfront => ?runs, fun why hcmd hdec hsched howned => ?refuses⟩
  case refuses =>
    rw [step_of_sched_cons hsched]
    exact State.issueNext_of_error (p := .wire bytes) howned hcmd hdec
  case runs =>
    obtain ⟨p, hcmd, hp⟩ : ∃ p : Presented, s.cmd = p :: rest ∧ p.command = .ok c := by
      rcases hfront with ⟨hcmd, hdec⟩ | hcmd
      · exact ⟨_, hcmd, hdec⟩
      · exact ⟨_, hcmd, rfl⟩
    refine ⟨fun hsched howned hidle => ?_, fun hsched howned hidle => ?_, fun hsched hwaits => ?_⟩
    · rw [step_of_sched_cons hsched]
      exact State.issueNext_of_idle (s := { s with sched := ms }) howned hidle hcmd hp
    · rw [step_of_sched_nil hsched, State.ownMove_of_command hidle howned (by simp [hcmd])]
      exact State.issueNext_of_idle howned hidle hcmd hp
    · rw [step_of_sched_cons hsched]
      exact State.issueNext_of_waits (s := { s with sched := ms }) hwaits hcmd hp

/-- Settles O50: the placed word's frame is at the front of the port and an `issue` move next. -/
theorem fetchedWordRuns : Obligations.FetchedWordRuns := by
  intro s nbits w c howned hidle hword
  have hdec : (Presented.wire (tableFrame nbits w)).command = .ok c := by
    rw [decodeTableWord] at hword
    cases hd : decode (tableFrame nbits w) with
    | error why => simp [hd, Except.toOption] at hword
    | ok i =>
      simp only [hd, Except.toOption, Option.some.injEq] at hword
      exact hword ▸ hd
  rw [State.withFetchWord, State.presentFirst, step_of_sched_cons rfl]
  exact State.issueNext_of_idle (s := { s with cmd := .wire (tableFrame nbits w) :: s.cmd }) howned hidle rfl hdec

theorem run_succ_of_step {M : Host.Core} {s s' : M.State} (h : M.step s = .next s') (k : Nat) :
    M.run (k + 1) s = M.run k s' := by
  rw [Host.Core.run, h]

/-- R193: a run goes on with the state that the first step answers. -/
theorem core_run_succ {s s' : State} (h : step s = .next s') (k : Nat) :
    Sys2Proof.core.run (k + 1) s = Sys2Proof.core.run k s' :=
  run_succ_of_step (M := Sys2Proof.core) h k

/-- Settles O29: by induction on the number of pending bytes; each step is an `emit`. -/
theorem emitsToQuiescence : Obligations.EmitsToQuiescence := by
  intro s hsched hidx
  obtain ⟨n, hn⟩ : ∃ n, n = s.txBuf.length - s.txIdx := ⟨_, rfl⟩
  rw [← hn]
  induction n generalizing s with
  | zero =>
    have hend : s.txBuf.length = s.txIdx := by omega
    have hsame : { s with tx := s.tx ++ s.txBuf.drop s.txIdx, txIdx := s.txBuf.length } = s := by
      rw [List.drop_eq_nil_of_le hend.le, List.append_nil, hend]
    exact congrArg Host.Outcome.next hsame.symm
  | succ n ih =>
    have hlt : s.txIdx < s.txBuf.length := by omega
    have hstep : step s = .next { s with tx := s.tx ++ [s.txBuf[s.txIdx]], txIdx := s.txIdx + 1 } := by
      rw [step_of_sched_nil hsched, State.ownMove_of_busy (s.txBusy_iff.mpr hlt)]
      exact (emitStep s).1 hlt
    have hrest := ih { s with tx := s.tx ++ [s.txBuf[s.txIdx]], txIdx := s.txIdx + 1 } hsched
      (Nat.succ_le_of_lt hlt) (by simp only; omega)
    have htail : s.tx ++ [s.txBuf[s.txIdx]] ++ s.txBuf.drop (s.txIdx + 1) = s.tx ++ s.txBuf.drop s.txIdx := by
      rw [List.append_assoc, List.singleton_append, List.getElem_cons_drop]
    exact (core_run_succ hstep n).trans (hrest.trans
      (congrArg (fun t => Host.Outcome.next { s with tx := t, txIdx := s.txBuf.length }) htail))

end Sys2Proof.Machine
end

section
/-! R141 to R155: the environment. Queue, driver and scope, the worker's loop, and how each of them moves the worker's
state and the termination flag. -/

namespace Sys2Proof.Machine

open Sys2Proof

/-- R143: what a queue that is not terminated gives out. -/
theorem Queue.takes_eq (tx : List Bytes) (rd : Nat) :
    Queue.takes (tx.length + rd) { tx := tx, rd := rd, term := false } =
      tx.map .transmit ++ List.replicate rd .readRequest := by
  induction tx with
  | nil =>
    induction rd with
    | zero => rfl
    | succ rd ih =>
      rw [List.length_nil, Nat.zero_add] at ih ⊢
      simp [Queue.takes, Queue.take, ih, List.replicate_succ]
  | cons b rest ih =>
    rw [List.length_cons, Nat.add_right_comm]
    simp [Queue.takes, Queue.take, ih]

/-- R142, R144: insertions keep the transmit items in order and count the reads. -/
theorem Queue.foldl_insert (ins : List (Option Bytes)) (tx : List Bytes) (rd : Nat) :
    ins.foldl Queue.insert { tx := tx, rd := rd, term := false } =
      { tx := tx ++ ins.filterMap id, rd := rd + ins.countP Option.isNone, term := false } := by
  induction ins generalizing tx rd with
  | nil => simp
  | cons item ins ih =>
    cases item with
    | none => simp [Queue.insert, Queue.putReadRequest, ih, Nat.add_assoc, Nat.add_comm 1]
    | some frame => simp [Queue.insert, Queue.putTransmit, ih]

/-- Each insertion is a transmit item or a read. -/
theorem length_insertions (ins : List (Option Bytes)) :
    ins.length = (ins.filterMap id).length + ins.countP Option.isNone := by
  induction ins with
  | nil => rfl
  | cons item ins ih =>
    cases item with
    | none => simp [ih, Nat.add_assoc]
    | some frame => simp [ih]; omega

/-- Settles O55: the insertions build up the two parts of the queue, and the takes empty them in the order of R143. -/
theorem queueOrder : Obligations.QueueOrder := by
  rintro ins q rfl
  rw [Queue.foldl_insert, length_insertions, Nat.zero_add, List.nil_append, Queue.takes_eq]

theorem State.workerStep_of_running {s : State} (h : s.worker.phase = .running) : s.workerStep = s.workerLoop := by
  simp only [State.workerStep, h]

theorem State.workerStep_of_draining {s : State} (h : s.worker.phase = .draining) :
    s.workerStep = { s with worker := { s.worker with phase := .stopped } } := by
  simp only [State.workerStep, h]

theorem Queue.take_of_term {q : Queue} (h : q.term = true) : q.take = some (.terminate, q) :=
  (queueTake q).1 h

/-- R146, R148: a worker with nothing in hand leaves its loop at the sentinel. -/
theorem State.workerLoop_of_term {s : State} (hfree : s.worker.serving = .free) (hterm : s.queue.term = true) :
    s.workerLoop = { s with worker := { s.worker with phase := .draining } } := by
  simp [State.workerLoop, hfree, Queue.take_of_term hterm, State.workerTook]

/-- What a worker's step does to the worker's state (R149) and to the queue's flag. -/
theorem State.workerStep_phase (s : State) :
    (s.workerStep.worker.phase = s.worker.phase ∨
      (s.worker.phase = .running ∧ s.workerStep.worker.phase = .draining ∧ s.queue.term = true ∧
        s.worker.serving = .free) ∨
      (s.worker.phase = .draining ∧ s.workerStep.worker.phase = .stopped)) ∧
    s.workerStep.queue.term = s.queue.term := by
  cases hphase : s.worker.phase with
  | idle => simp [State.workerStep, hphase]
  | draining => simp [State.workerStep, hphase]
  | stopped => simp [State.workerStep, hphase]
  | running =>
    rw [State.workerStep_of_running hphase]
    rcases s.workerLoop_cases with ⟨hfree, item, q, htake, h⟩ | ⟨frame, -, -, h⟩ | ⟨-, -, h⟩ | ⟨-, -, h⟩ | ⟨-, -, h⟩ | h
    case inl =>
      rw [h]
      rcases s.queue.take_cases with ⟨hterm, ht⟩ | ⟨-, b, rest, -, ht⟩ | ⟨-, -, -, ht⟩ | ⟨-, -, -, ht⟩
      · obtain ⟨rfl, rfl⟩ := Prod.mk.inj (Option.some.inj (ht.symm.trans htake))
        exact ⟨.inr (.inl ⟨rfl, rfl, hterm, hfree⟩), rfl⟩
      · obtain ⟨rfl, rfl⟩ := Prod.mk.inj (Option.some.inj (ht.symm.trans htake))
        exact ⟨.inl hphase, rfl⟩
      · obtain ⟨rfl, rfl⟩ := Prod.mk.inj (Option.some.inj (ht.symm.trans htake))
        exact ⟨.inl hphase, rfl⟩
      · rw [ht] at htake
        contradiction
    case inr.inr.inr.inl =>
      rcases s.rxArm_cases with ⟨-, harm⟩ | ⟨-, harm⟩ <;> rw [h, harm] <;> exact ⟨.inl hphase, rfl⟩
    all_goals
      rw [h]
      exact ⟨.inl hphase, rfl⟩

theorem State.scopeEnter_worker (s : State) : s.scopeEnter.worker = s.worker ∨
    s.worker.phase = .idle ∧ s.scopeEnter.worker = { s.worker with phase := .running } := by
  rcases s.scopeEnter_cases with ⟨-, h⟩ | ⟨-, h⟩
  · rcases s.workerStart_cases with ⟨hidle, hstart⟩ | ⟨-, hstart⟩
    · exact .inr ⟨hidle, by rw [h, hstart]⟩
    · exact .inl (by rw [h, hstart])
  · exact .inl (by rw [h])

/-- R149: every move but the start, the worker's own and a port error leaves the worker as it is. -/
theorem act_keeps_worker {s s' : State} {m : Move} (hstart : m ≠ .scopeEnter) (hstep : m ≠ .workerStep)
    (herror : m ≠ .portError) (h : s.act m = .next s') : s'.worker = s.worker := by
  cases henv : m.isEnvironment with
  | false =>
    have hworker : s'.worker = (s'.withEnvironment s).worker := congrArg State.worker (act_keeps_environment henv h)
    exact hworker
  | true =>
    cases m with
    | driverOp c => exact Host.Outcome.next.inj h ▸ State.worker_eq_of_callers (s.driverOp_writes c)
    | driverRead => exact Host.Outcome.next.inj h ▸ State.worker_eq_of_callers s.driverRead_writes
    | terminate => exact Host.Outcome.next.inj h ▸ State.worker_eq_of_callers s.terminateCall_writes
    | takeReply => exact Host.Outcome.next.inj h ▸ State.worker_eq_of_callers s.takeReply_writes
    | scopeExit path => exact Host.Outcome.next.inj h ▸ State.worker_eq_of_callers s.scopeExit_writes
    | scopeJoin => exact Host.Outcome.next.inj h ▸ State.worker_eq_of_callers s.scopeJoin_writes
    | _ => contradiction

/-- Settles O56: the three moves that touch the worker are moves of the environment, so they stand at the head of the
schedule. -/
theorem workerNeverSkipsAState : Obligations.WorkerNeverSkipsAState := by
  intro s s' hstep hmoved
  obtain ⟨m, ms, hact, hmove⟩ := exists_move_of_step hstep
  by_cases hstart : m = .scopeEnter
  · subst hstart
    have hhead := sched_head_of_environment hmove rfl
    obtain rfl := Host.Outcome.next.inj hact
    rcases State.scopeEnter_worker { s with sched := ms } with hsame | ⟨hidle, hrunning⟩
    · exact absurd (congrArg Worker.phase hsame) hmoved
    · exact .inl ⟨hidle, congrArg Worker.phase hrunning, hhead⟩
  by_cases hworker : m = .workerStep
  · subst hworker
    have hhead := sched_head_of_environment hmove rfl
    obtain rfl := Host.Outcome.next.inj hact
    rcases (State.workerStep_phase { s with sched := ms }).1 with hsame | ⟨hrunning, hdraining, hterm, hfree⟩ |
      ⟨hdraining, hstopped⟩
    · exact absurd hsame hmoved
    · exact .inr (.inl ⟨hrunning, hdraining, .inr ⟨hhead, hterm, hfree⟩⟩)
    · exact .inr (.inr ⟨hdraining, hstopped, hhead⟩)
  by_cases herror : m = .portError
  · subst herror
    have hhead := sched_head_of_environment hmove rfl
    obtain rfl := Host.Outcome.next.inj hact
    rcases State.portError_cases { s with sched := ms } with ⟨hrunning, hdraining⟩ | ⟨-, hsame⟩
    · exact .inr (.inl ⟨hrunning, congrArg (fun t => t.worker.phase) hdraining, .inl hhead⟩)
    · exact absurd (congrArg (fun t => t.worker.phase) hsame) hmoved
  exact absurd (congrArg Worker.phase (act_keeps_worker hstart hworker herror hact)) hmoved

/-- R146: no move clears the flag. -/
theorem act_keeps_term {s s' : State} {m : Move} (hterm : s.queue.term = true) (h : s.act m = .next s') :
    s'.queue.term = true := by
  cases henv : m.isEnvironment with
  | false =>
    have hqueue : s'.queue = (s'.withEnvironment s).queue := congrArg State.queue (act_keeps_environment henv h)
    rw [hqueue]
    exact hterm
  | true =>
    cases m with
    | driverOp c =>
      rw [← Host.Outcome.next.inj h]
      rcases s.driverOp_cases c with ⟨-, h⟩ | ⟨-, -, h⟩ | ⟨-, -, e, -, h⟩ | ⟨-, -, frame, -, h⟩ <;> rw [h] <;>
        exact hterm
    | driverRead =>
      rw [← Host.Outcome.next.inj h]
      rcases s.driverRead_cases with ⟨-, h⟩ | ⟨-, h⟩ <;> rw [h] <;> exact hterm
    | terminate =>
      rw [← Host.Outcome.next.inj h]
      rcases s.terminateCall_cases with ⟨-, h⟩ | ⟨-, h⟩ <;> rw [h]
      · rfl
      · exact hterm
    | takeReply =>
      rw [← Host.Outcome.next.inj h]
      rcases s.takeReply_cases with ⟨-, h⟩ | ⟨r, rest, -, h⟩ <;> rw [h] <;> exact hterm
    | scopeEnter =>
      rw [← Host.Outcome.next.inj h]
      rcases s.scopeEnter_cases with ⟨-, h⟩ | ⟨-, h⟩
      · rcases s.workerStart_cases with ⟨-, hstart⟩ | ⟨-, hstart⟩ <;> rw [h, hstart] <;> exact hterm
      · rw [h]; exact hterm
    | scopeExit path =>
      rw [← Host.Outcome.next.inj h]
      rcases s.scopeExit_cases with ⟨-, h⟩ | ⟨-, h⟩ <;> rw [h]
      · rfl
      · exact hterm
    | scopeJoin =>
      rw [← Host.Outcome.next.inj h]
      rcases s.scopeJoin_cases with ⟨-, -, h⟩ | ⟨-, h⟩ <;> rw [h] <;> exact hterm
    | workerStep =>
      rw [← Host.Outcome.next.inj h, s.workerStep_phase.2, hterm]
    | portError =>
      rw [← Host.Outcome.next.inj h]
      rcases s.portError_cases with ⟨-, h⟩ | ⟨-, h⟩ <;> rw [h] <;> exact hterm
    | _ => contradiction

/-- Settles O57: the call sets the flag within the scope, and no move clears it. -/
theorem terminationIsPermanent : Obligations.TerminationIsPermanent := by
  refine ⟨fun s hin => ?sets, fun s hout => ?nothing, fun s s' hstep hterm => ?kept⟩
  case sets => simp [State.act, State.terminateCall, hin, State.terminate, Queue.terminate]
  case nothing => simp [State.act, State.terminateCall, hout]
  case kept =>
    obtain ⟨m, ms, hact, -⟩ := exists_move_of_step hstep
    have hterm' := act_keeps_term (s := { s with sched := ms }) hterm hact
    exact ⟨hterm', Queue.take_of_term hterm'⟩

/-- Settles O58: the clauses are the cases of the driver's two insertions and of the taking of a message. -/
theorem driverOperation : Obligations.DriverOperation := by
  intro s c
  refine ⟨fun hin hnofault => ⟨fun frame henc => ?ok, fun henc => ?domain, fun henc => ?encoding⟩,
    fun hin hfault => ?fault, fun hout => ?outside, fun howed => ?read, fun r rest hreplies => ?reply⟩
  case ok => simp [State.act, State.driverOp, hin, hnofault, henc, Queue.putTransmit]
  case domain => simp [State.act, State.driverOp, hin, hnofault, henc, EncErr.eStat, EStat.errorClass]
  case encoding => simp [State.act, State.driverOp, hin, hnofault, henc, EncErr.eStat, EStat.errorClass]
  case fault => simp [State.act, State.driverOp, hin, hfault]
  case outside => simp [State.act, State.driverOp, hout]
  case read => simp [State.act, State.driverRead, howed, Queue.putReadRequest]
  case reply => simp [State.act, State.takeReply, hreplies]

/-- R48, R61: what is read off the command byte of a built frame is the reply expectation of its command. -/
theorem frameExpectsReply_of_encode {c : Instr} {frame : Bytes} (h : encodeCommand c = .ok frame) :
    frameExpectsReply frame = replyExpected c := by
  obtain ⟨⟨rest, rfl⟩, -, -⟩ := frameShapeAndLength Config.fonts c frame h
  cases c <;> rfl

/-- Settles O59: the clauses are the cases of the running worker's loop, and of a port error. -/
theorem workerServesItems : Obligations.WorkerServesItems := by
  intro s hrunning
  have hact : s.act .workerStep = .next s.workerLoop :=
    congrArg Host.Outcome.next (State.workerStep_of_running hrunning)
  rw [hact]
  refine ⟨fun frame q hfree htake => ?takesFrame, fun q hfree htake => ?takesRead, fun hfree hterm => ?leaves,
    fun hfree htake => ?blocks, fun c frame henc hitem hidle hrx => ?writes, fun hitem hidle hrx => ?arms,
    fun hitem hbusy => ?waits, fun hserving => ?serves, fun hitem hidle => ?written, fun hitem hrx => ?read, ?error⟩
  case takesFrame => simp [State.workerLoop, hfree, htake, State.workerTook]
  case takesRead => simp [State.workerLoop, hfree, htake, State.workerTook]
  case leaves => rw [State.workerLoop_of_term hfree hterm]
  case blocks => simp [State.workerLoop, hfree, htake]
  case writes =>
    simp [State.workerLoop, hitem, (s.quiescent_iff).mpr ⟨hidle, hrx⟩, frameExpectsReply_of_encode henc, State.load]
  case arms => simp [State.workerLoop, hitem, (s.quiescent_iff).mpr ⟨hidle, hrx⟩, State.rxArm, hrx]
  case waits =>
    have hnot : ¬s.quiescent = true := by
      rw [s.quiescent_iff]
      rintro ⟨hidle, hrx⟩
      simp [hidle, hrx] at hbusy
    rcases hitem with ⟨frame, hitem⟩ | hitem <;> simp [State.workerLoop, hitem, hnot]
  case serves =>
    rcases hserving with ⟨hitem, hbusy⟩ | ⟨hitem, hrx⟩
    · simp [State.workerLoop, hitem, hbusy]
    · simp [State.workerLoop, hitem, hrx]
  case written => simp [State.workerLoop, hitem, hidle]
  case read =>
    simp only [State.workerLoop, hitem, hrx, if_true]
    rfl
  case error => simp [State.act, State.portError, hrunning]

end Sys2Proof.Machine
end

section
/-! The invariant, as a structure with one named fact per rule, and its preservation: one lemma per operation, each of
which names the facts it touches and takes the others over. -/

namespace Sys2Proof.Machine

open Sys2Proof

/-- `State.inv`, rule by rule. -/
structure Inv (s : State) : Prop where
  /-- R13 -/
  index : s.txIdx ≤ s.txBuf.length
  /-- R12, R45 -/
  buffer : s.txBuf = [] ∨ framed s.txBuf = true
  /-- R15 -/
  reply : s.txReply = frameExpectsReply s.txBuf
  /-- R17 -/
  idle : s.rxState = .idle → s.rxPre = [] ∧ s.rxBody = []
  /-- R17 -/
  hunt : s.rxState = .hunt → s.rxBody = []
  /-- R18, R22 -/
  armed : s.rxState ≠ .idle → Config.prefixByte ∉ s.rxPre ∧ s.rxRes = .none
  /-- R19 -/
  body : s.rxState = .body → ¬Config.suffix <:+: s.rxBody
  /-- R22, R120 -/
  reported : ∀ pre body, s.rxRes = .frame pre body →
    recognize (pre ++ wrap body) = .complete pre [Config.prefixByte] body Config.suffix []
  /-- R140 -/
  queued : ∀ f ∈ s.queue.tx, framed f = true
  /-- R140 -/
  inHand : ∀ f, s.worker.serving = .toWrite f → framed f = true
  /-- R149 -/
  freeHands : s.worker.phase = .running ∨ s.worker.serving = .free
  /-- R148 -/
  writing : s.worker.serving = .writing → s.rxState = .idle
  /-- R148 -/
  reading : s.worker.serving = .reading → s.txBusy = false
  /-- R153 -/
  entered : s.driver.scope = .notEntered ↔ s.worker.phase = .idle
  /-- R153 -/
  leaving : s.driver.scope = .leaving → s.queue.term = true
  /-- R153 -/
  left : s.driver.scope = .left → s.worker.phase = .stopped
  /-- R153, R154 -/
  returned : s.driver.exitResult.isSome = true ↔ s.driver.scope = .left
  /-- R154 -/
  fault : s.driver.portFault = true → s.worker.phase = .draining ∨ s.worker.phase = .stopped

theorem encInv_iff (s : State) : s.encInv = true ↔
    s.txIdx ≤ s.txBuf.length ∧ (s.txBuf = [] ∨ framed s.txBuf = true) ∧ s.txReply = frameExpectsReply s.txBuf := by
  simp [State.encInv, and_assoc]

theorem rxBuffersInv_iff (s : State) : s.rxBuffersInv = true ↔
    (s.rxState = .idle → s.rxPre = [] ∧ s.rxBody = []) ∧ (s.rxState = .hunt → s.rxBody = []) ∧
      (s.rxState ≠ .idle → Config.prefixByte ∉ s.rxPre ∧ s.rxRes = .none) ∧
      (s.rxState = .body → ¬Config.suffix <:+: s.rxBody) := by
  cases hstate : s.rxState with
  | idle => simp [State.rxBuffersInv, hstate]
  | hunt => simp [State.rxBuffersInv, hstate, and_assoc]
  | body =>
    simp only [State.rxBuffersInv, hstate, Bool.and_eq_true, Option.isNone_iff_eq_none,
      splitAtSuffix_eq_none_iff_not_infix]
    simp [and_comm, and_left_comm]

theorem rxResInv_iff (s : State) : s.rxResInv = true ↔ ∀ pre body, s.rxRes = .frame pre body →
    recognize (pre ++ wrap body) = .complete pre [Config.prefixByte] body Config.suffix [] := by
  cases hres : s.rxRes with
  | none => simp [State.rxResInv, hres]
  | noResponse => simp [State.rxResInv, hres]
  | frame pre body =>
    simp only [State.rxResInv, hres, beq_iff_eq, RxResult.frame.injEq]
    exact ⟨fun h _ _ ⟨hpre, hbody⟩ => hpre ▸ hbody ▸ h, fun h => h pre body ⟨rfl, rfl⟩⟩

theorem scopeInv_iff (s : State) : s.scopeInv = true ↔
    (s.driver.scope = .notEntered ↔ s.worker.phase = .idle) ∧ (s.driver.scope = .leaving → s.queue.term = true) ∧
      (s.driver.scope = .left → s.worker.phase = .stopped) ∧
      (s.driver.exitResult.isSome = true ↔ s.driver.scope = .left) ∧
      (s.driver.portFault = true → s.worker.phase = .draining ∨ s.worker.phase = .stopped) := by
  have hentered : ((s.driver.scope == .notEntered) == (s.worker.phase == .idle)) = true ↔
      (s.driver.scope = .notEntered ↔ s.worker.phase = .idle) := by
    rw [beq_iff_eq, Bool.eq_iff_iff, beq_iff_eq, beq_iff_eq]
  have hreturned : (s.driver.exitResult.isSome == (s.driver.scope == .left)) = true ↔
      (s.driver.exitResult.isSome = true ↔ s.driver.scope = .left) := by
    rw [beq_iff_eq, Bool.eq_iff_iff, beq_iff_eq]
  rw [State.scopeInv, Bool.and_eq_true, Bool.and_eq_true, Bool.and_eq_true, Bool.and_eq_true, hentered, hreturned,
    and_assoc, and_assoc, and_assoc]
  simp [imp_iff_not_or, or_assoc]

theorem envInv_iff (s : State) : s.envInv = true ↔
    (∀ f ∈ s.queue.tx, framed f = true) ∧ (∀ f, s.worker.serving = .toWrite f → framed f = true) ∧
      (s.worker.phase = .running ∨ s.worker.serving = .free) ∧ (s.worker.serving = .writing → s.rxState = .idle) ∧
      (s.worker.serving = .reading → s.txBusy = false) ∧ s.scopeInv = true := by
  have hitem : (match s.worker.serving with
      | .toWrite frame => framed frame
      | .free => true
      | .writing => true
      | .toRead => true
      | .reading => true) = true ↔ ∀ f, s.worker.serving = .toWrite f → framed f = true := by
    cases s.worker.serving <;> simp
  simp only [State.envInv, State.portInv, Bool.and_eq_true, Bool.or_eq_true, beq_iff_eq, bne_iff_ne, and_assoc,
    Bool.not_eq_true', List.all_eq_true, ne_eq, ← imp_iff_not_or]
  exact and_congr_right fun _ => and_congr_left fun _ => hitem

theorem inv_iff (s : State) : s.inv = true ↔ Inv s := by
  rw [State.inv, Bool.and_eq_true, Bool.and_eq_true, Bool.and_eq_true, encInv_iff, rxBuffersInv_iff, rxResInv_iff,
    envInv_iff, scopeInv_iff]
  constructor
  · rintro ⟨⟨⟨⟨hindex, hbuffer, hreply⟩, hidle, hhunt, harmed, hbody⟩, hreported⟩, hqueued, hitem, hfree, hwriting,
      hreading, hentered, hleaving, hleft, hreturned, hfault⟩
    exact ⟨hindex, hbuffer, hreply, hidle, hhunt, harmed, hbody, hreported, hqueued, hitem, hfree, hwriting, hreading,
      hentered, hleaving, hleft, hreturned, hfault⟩
  · intro hi
    exact ⟨⟨⟨⟨hi.index, hi.buffer, hi.reply⟩, hi.idle, hi.hunt, hi.armed, hi.body⟩, hi.reported⟩, hi.queued, hi.inHand,
      hi.freeHands, hi.writing, hi.reading, hi.entered, hi.leaving, hi.left, hi.returned, hi.fault⟩

section
variable {s s' : State}

/-- R148: who does not own the port has nothing in hand. -/
theorem Inv.free_of_not_owned (hi : Inv s) (h : s.portOwned = false) : s.worker.serving = .free := by
  refine hi.freeHands.resolve_left fun hrunning => ?_
  rw [s.portOwned_iff.mpr (.inl hrunning)] at h
  contradiction

theorem Inv.phase_ne_idle (hi : Inv s) (h : s.driver.scope ≠ .notEntered) : s.worker.phase ≠ .idle :=
  mt hi.entered.mpr h

theorem Inv.scope_ne_notEntered (hi : Inv s) (h : s.worker.phase ≠ .idle) : s.driver.scope ≠ .notEntered :=
  mt hi.entered.mp h

theorem inv_issue (hi : Inv s) (hfree : s.worker.serving = .free) (c : Instr) :
    Inv (s.issue (encodeCommand c) (replyExpected c)) := by
  rcases s.issue_cases (encodeCommand c) (replyExpected c) with ⟨-, h⟩ | ⟨-, frame, henc, h⟩ | ⟨-, e, -, h⟩ <;> rw [h]
  case inl => exact hi
  case inr.inl =>
    obtain ⟨-, -, hframed⟩ := frameShapeAndLength Config.fonts c frame henc
    exact { hi with
      index := Nat.zero_le _
      buffer := .inr hframed
      reply := (frameExpectsReply_of_encode henc).symm
      reading := fun hreading => absurd (hfree.symm.trans hreading) (by decide) }
  case inr.inr => exact { hi with }

theorem inv_issueNext (hi : Inv s) (h : s.issueNext = .next s') : Inv s' := by
  rcases s.issueNext_cases with ⟨-, hsame⟩ | ⟨howned, p, rest, -, hcases⟩
  · exact Host.Outcome.next.inj (hsame.symm.trans h) ▸ hi
  · have hfree := hi.free_of_not_owned howned
    rcases hcases with ⟨why, -, hrefused⟩ | ⟨i, -, -, hexec⟩ | ⟨i, -, -, hexec⟩
    · rw [hrefused] at h
      contradiction
    · rw [hexec, exec_eq_issue] at h
      exact Host.Outcome.next.inj h ▸ inv_issue hi hfree i
    · rw [hexec, exec_eq_issue] at h
      exact Host.Outcome.next.inj h ▸ inv_issue (s := { s with cmd := rest }) { hi with } hfree i

theorem inv_emit (hi : Inv s) : Inv s.emit := by
  rcases s.emit_cases with ⟨-, h⟩ | ⟨hbusy, b, -, h⟩ <;> rw [h]
  case inl => exact hi
  case inr =>
    exact { hi with
      index := (s.txBusy_iff).mp hbusy
      reading := fun hreading => absurd ((hi.reading hreading).symm.trans hbusy) (by decide) }

theorem inv_serveRead (hi : Inv s) : Inv s.serveRead := by
  rcases s.serveRead_cases with ⟨howned, -, -, h⟩ | ⟨-, h⟩ <;> rw [h]
  case inl =>
    exact { hi with
      idle := nofun
      hunt := fun _ => rfl
      armed := fun _ => ⟨List.not_mem_nil, rfl⟩
      body := nofun
      reported := nofun
      writing := fun hwriting => absurd ((hi.free_of_not_owned howned).symm.trans hwriting) (by decide) }
  case inr => exact hi

/-- R126: a byte taken in HUNT. -/
theorem inv_rxByte_of_hunt (hi : Inv s) {b : Byte} {rest : Bytes} (hstate : s.rxState = .hunt)
    (hrx : s.rx = b :: rest) : Inv s.rxByte := by
  obtain ⟨hpre, hres⟩ := hi.armed (by simp [hstate])
  have hnotWriting : s.worker.serving ≠ .writing := fun h => by simp [hi.writing h] at hstate
  rcases State.rxByte_of_hunt hstate hrx with ⟨-, h⟩ | ⟨hb, h⟩ <;> rw [h]
  case inl =>
    exact { hi with
      idle := nofun
      hunt := nofun
      armed := fun _ => ⟨hpre, hres⟩
      body := fun _ => by simp [hi.hunt hstate, Config.suffix]
      writing := fun h => absurd h hnotWriting }
  case inr =>
    exact { hi with
      idle := fun h => by simp [hstate] at h
      hunt := fun _ => hi.hunt hstate
      armed := fun _ => ⟨by simp [hpre, Ne.symm hb], hres⟩
      body := fun h => by simp [hstate] at h
      writing := fun h => absurd h hnotWriting }

/-- R127, R128: a byte taken in BODY. The suffix is new, or there is none. -/
theorem inv_rxByte_of_body (hi : Inv s) {b : Byte} {rest : Bytes} (hstate : s.rxState = .body)
    (hrx : s.rx = b :: rest) : Inv s.rxByte := by
  obtain ⟨hpre, hres⟩ := hi.armed (by simp [hstate])
  have hfree := hi.body hstate
  have hnotWriting : s.worker.serving ≠ .writing := fun h => by simp [hi.writing h] at hstate
  rcases State.rxByte_of_body hstate hrx with ⟨body, hsplit, h⟩ | ⟨hnosplit, h⟩ <;> rw [h]
  case inl =>
    have hstart : s.rxBody = body ++ suffixStart := by
      rw [suffix_eq, ← List.append_assoc] at hsplit
      exact (List.append_inj' hsplit rfl).1
    rw [hstart] at hfree
    exact { hi with
      idle := fun _ => ⟨rfl, rfl⟩
      hunt := nofun
      armed := fun h => absurd rfl h
      body := nofun
      reported := fun pre' body' h => by
        obtain ⟨rfl, rfl⟩ := RxResult.frame.inj h
        simpa using recognize_wrap s.rxPre body [] hpre hfree
      writing := fun _ => rfl }
  case inr =>
    exact { hi with
      idle := fun h => by simp [hstate] at h
      hunt := fun h => by simp [hstate] at h
      armed := fun _ => ⟨hpre, hres⟩
      body := fun _ hinfix => by
        rcases List.infix_concat_iff.mp hinfix with ⟨body, hsplit⟩ | hearlier
        · exact hnosplit body hsplit.symm
        · exact hfree hearlier
      writing := fun h => absurd h hnotWriting }

theorem inv_rxByte (hi : Inv s) : Inv s.rxByte := by
  rcases s.rxByte_cases with ⟨hstate, b, rest, hrx, -⟩ | ⟨hstate, b, rest, hrx, -⟩ | ⟨-, h⟩
  · exact inv_rxByte_of_hunt hi hstate hrx
  · exact inv_rxByte_of_body hi hstate hrx
  · rwa [h]

theorem inv_rxTimeout (hi : Inv s) : Inv s.rxTimeout := by
  rcases s.rxTimeout_cases with ⟨-, h⟩ | ⟨-, h⟩ <;> rw [h]
  case inl =>
    exact { hi with
      idle := fun _ => ⟨rfl, rfl⟩
      hunt := nofun
      armed := fun h => absurd rfl h
      body := nofun
      reported := nofun
      writing := fun _ => rfl }
  case inr => exact hi

theorem inv_resetBlock (hi : Inv s) : Inv s.resetBlock :=
  { hi with
    index := le_rfl
    buffer := .inl rfl
    reply := rfl
    idle := fun _ => ⟨rfl, rfl⟩
    hunt := nofun
    armed := fun h => absurd rfl h
    body := nofun
    reported := nofun
    writing := fun _ => rfl
    reading := fun _ => rfl }

theorem inv_lineTake (hi : Inv s) : Inv s.lineTake := by
  rw [s.lineTake_writes]
  exact { hi with }

theorem inv_driverOp (hi : Inv s) (c : Instr) : Inv (s.driverOp c) := by
  rcases s.driverOp_cases c with ⟨-, h⟩ | ⟨-, -, h⟩ | ⟨-, -, e, -, h⟩ | ⟨-, -, frame, henc, h⟩ <;> rw [h]
  case inl => exact hi
  case inr.inl => exact { hi with }
  case inr.inr.inl => exact { hi with }
  case inr.inr.inr =>
    obtain ⟨-, -, hframed⟩ := frameShapeAndLength Config.fonts c frame henc
    exact { hi with
      queued := fun f hf => by
        rcases List.mem_append.mp hf with hold | hnew
        · exact hi.queued f hold
        · rwa [List.mem_singleton.mp hnew] }

theorem inv_driverRead (hi : Inv s) : Inv s.driverRead := by
  rcases s.driverRead_cases with ⟨-, h⟩ | ⟨-, h⟩ <;> rw [h]
  case inl => exact { hi with }
  case inr => exact hi

theorem inv_terminateCall (hi : Inv s) : Inv s.terminateCall := by
  rcases s.terminateCall_cases with ⟨-, h⟩ | ⟨-, h⟩ <;> rw [h]
  case inl => exact { hi with leaving := fun _ => rfl }
  case inr => exact hi

theorem inv_takeReply (hi : Inv s) : Inv s.takeReply := by
  rcases s.takeReply_cases with ⟨-, h⟩ | ⟨r, rest, -, h⟩ <;> rw [h]
  case inl => exact hi
  case inr => exact { hi with }

theorem inv_scopeEnter (hi : Inv s) : Inv s.scopeEnter := by
  rcases s.scopeEnter_cases with ⟨hout, h⟩ | ⟨-, h⟩ <;> rw [h]
  case inl =>
    have hidle := hi.entered.mp hout
    have hstart : s.workerStart = { s with worker := { s.worker with phase := .running } } := by
      simp [State.workerStart, hidle]
    rw [hstart]
    exact { hi with
      freeHands := .inl rfl
      entered := iff_of_false nofun nofun
      leaving := nofun
      left := nofun
      returned := iff_of_false (fun hret => by simp [hi.returned.mp hret] at hout) nofun
      fault := fun hfault => by simpa [hidle] using hi.fault hfault }
  case inr => exact hi

theorem inv_scopeExit (hi : Inv s) : Inv s.scopeExit := by
  rcases s.scopeExit_cases with ⟨hin, h⟩ | ⟨-, h⟩ <;> rw [h]
  case inl =>
    exact { hi with
      entered := iff_of_false nofun (hi.phase_ne_idle (by simp [hin]))
      leaving := fun _ => rfl
      left := nofun
      returned := iff_of_false (fun hret => by simp [hi.returned.mp hret] at hin) nofun }
  case inr => exact hi

theorem inv_scopeJoin (hi : Inv s) : Inv s.scopeJoin := by
  rcases s.scopeJoin_cases with ⟨-, hstopped, h⟩ | ⟨-, h⟩ <;> rw [h]
  case inl =>
    exact { hi with
      entered := iff_of_false nofun (by simp [hstopped])
      leaving := nofun
      left := fun _ => hstopped
      returned := iff_of_true rfl rfl }
  case inr => exact hi

theorem inv_portError (hi : Inv s) : Inv s.portError := by
  rcases s.portError_cases with ⟨hrunning, h⟩ | ⟨-, h⟩ <;> rw [h]
  case inl =>
    exact { hi with
      inHand := nofun
      freeHands := .inr rfl
      writing := nofun
      reading := nofun
      entered := iff_of_false (hi.scope_ne_notEntered (by simp [hrunning])) nofun
      left := fun hleft => by simp [hi.left hleft] at hrunning
      fault := fun _ => .inl rfl }
  case inr => exact hi

/-- R148: the item that a running worker takes comes from the queue. -/
theorem inv_workerTook (hi : Inv s) (hrunning : s.worker.phase = .running) (hfree : s.worker.serving = .free)
    {item : WorkItem} {q : Queue} (htake : s.queue.take = some (item, q)) : Inv (s.workerTook item q) := by
  rcases s.queue.take_cases with ⟨-, ht⟩ | ⟨-, b, rest, htx, ht⟩ | ⟨-, -, -, ht⟩ | ⟨-, -, -, ht⟩
  · obtain ⟨rfl, rfl⟩ := Prod.mk.inj (Option.some.inj (ht.symm.trans htake))
    exact { hi with
      freeHands := .inr hfree
      entered := iff_of_false (hi.scope_ne_notEntered (by simp [hrunning])) nofun
      left := fun hleft => by simp [hi.left hleft] at hrunning
      fault := fun _ => .inl rfl }
  · obtain ⟨rfl, rfl⟩ := Prod.mk.inj (Option.some.inj (ht.symm.trans htake))
    have hqueued : ∀ f ∈ b :: rest, framed f = true := htx ▸ hi.queued
    exact { hi with
      queued := fun f hf => hqueued f (List.mem_cons_of_mem _ hf)
      inHand := fun f hf => Serving.toWrite.inj hf ▸ hqueued b List.mem_cons_self
      freeHands := .inl hrunning
      writing := nofun
      reading := nofun }
  · obtain ⟨rfl, rfl⟩ := Prod.mk.inj (Option.some.inj (ht.symm.trans htake))
    exact { hi with
      inHand := nofun
      freeHands := .inl hrunning
      writing := nofun
      reading := nofun }
  · rw [ht] at htake
    contradiction

theorem inv_workerLoop (hi : Inv s) (hrunning : s.worker.phase = .running) : Inv s.workerLoop := by
  rcases s.workerLoop_cases with ⟨hfree, item, q, htake, h⟩ | ⟨frame, hitem, hquiet, h⟩ | ⟨-, -, h⟩ | ⟨-, hquiet, h⟩ |
    ⟨-, -, h⟩ | h <;> rw [h]
  case inl => exact inv_workerTook hi hrunning hfree htake
  case inr.inl =>
    exact { hi with
      index := Nat.zero_le _
      buffer := .inr (hi.inHand frame hitem)
      reply := rfl
      inHand := nofun
      freeHands := .inl hrunning
      writing := fun _ => ((s.quiescent_iff).mp hquiet).2
      reading := nofun }
  case inr.inr.inl =>
    exact { hi with
      inHand := nofun
      freeHands := .inr rfl
      writing := nofun
      reading := nofun }
  case inr.inr.inr.inl =>
    obtain ⟨hidle, hrx⟩ := (s.quiescent_iff).mp hquiet
    rcases s.rxArm_cases with ⟨-, harm⟩ | ⟨hne, -⟩
    · rw [harm]
      exact { hi with
        idle := nofun
        hunt := fun _ => rfl
        armed := fun _ => ⟨List.not_mem_nil, rfl⟩
        body := nofun
        reported := nofun
        inHand := nofun
        freeHands := .inl hrunning
        writing := nofun
        reading := fun _ => hidle }
    · exact absurd hrx hne
  case inr.inr.inr.inr.inl =>
    exact { hi with
      inHand := nofun
      freeHands := .inr rfl
      writing := nofun
      reading := nofun }
  case inr.inr.inr.inr.inr => exact hi

theorem inv_workerStep (hi : Inv s) : Inv s.workerStep := by
  cases hphase : s.worker.phase with
  | idle => simpa only [State.workerStep, hphase] using hi
  | running =>
    rw [State.workerStep_of_running hphase]
    exact inv_workerLoop hi hphase
  | draining =>
    have hfree : s.worker.serving = .free := hi.freeHands.resolve_left (by simp [hphase])
    rw [State.workerStep_of_draining hphase]
    exact { hi with
      freeHands := .inr hfree
      entered := iff_of_false (hi.scope_ne_notEntered (by simp [hphase])) nofun
      left := fun _ => rfl
      fault := fun _ => .inr rfl }
  | stopped => simpa only [State.workerStep, hphase] using hi

end

/-- Every move keeps the invariant. -/
theorem inv_act {s s' : State} {m : Move} (hi : Inv s) (h : s.act m = .next s') : Inv s' := by
  cases m with
  | issue => exact inv_issueNext hi h
  | emit => exact Host.Outcome.next.inj h ▸ inv_emit hi
  | rxArm => exact Host.Outcome.next.inj h ▸ inv_serveRead hi
  | rxByte => exact Host.Outcome.next.inj h ▸ inv_rxByte hi
  | rxTimeout => exact Host.Outcome.next.inj h ▸ inv_rxTimeout hi
  | reset => exact Host.Outcome.next.inj h ▸ inv_resetBlock hi
  | present p => exact Host.Outcome.next.inj h ▸ { hi with }
  | requestRead => exact Host.Outcome.next.inj h ▸ { hi with }
  | readOutputs => exact Host.Outcome.next.inj h ▸ hi
  | query q => exact Host.Outcome.next.inj h ▸ hi
  | lineTake => exact Host.Outcome.next.inj h ▸ inv_lineTake hi
  | lineAppend b => exact Host.Outcome.next.inj h ▸ { hi with }
  | driverOp c => exact Host.Outcome.next.inj h ▸ inv_driverOp hi c
  | driverRead => exact Host.Outcome.next.inj h ▸ inv_driverRead hi
  | terminate => exact Host.Outcome.next.inj h ▸ inv_terminateCall hi
  | takeReply => exact Host.Outcome.next.inj h ▸ inv_takeReply hi
  | scopeEnter => exact Host.Outcome.next.inj h ▸ inv_scopeEnter hi
  | scopeExit path => exact Host.Outcome.next.inj h ▸ inv_scopeExit hi
  | scopeJoin => exact Host.Outcome.next.inj h ▸ inv_scopeJoin hi
  | workerStep => exact Host.Outcome.next.inj h ▸ inv_workerStep hi
  | portError => exact Host.Outcome.next.inj h ▸ inv_portError hi

/-- Settles O31: a step is one move, and taking it off the schedule touches no field that the invariant speaks of. -/
theorem stepKeepsInvariant : Obligations.StepKeepsInvariant := by
  intro s s' hinv hstep
  obtain ⟨m, ms, hact, -⟩ := exists_move_of_step hstep
  have hi := (inv_iff s).mp hinv
  exact (inv_iff s').mpr (inv_act (s := { s with sched := ms }) { hi with } hact)

/-- Settles O32: after reset the buffers are empty, DEC is idle, and the scope, the worker and the flags are those of a
run that has not begun. -/
theorem resetHasInvariant : Obligations.ResetHasInvariant := by
  refine (inv_iff State.reset).mpr ?_
  constructor <;> simp [State.reset, frameExpectsReply]

end Sys2Proof.Machine
end

section
/-! R40: what the line has seen and what is pending. Only ENC's two steps and the worker's write touch either; the
line's removal moves a byte within the whole of `TX`. -/

namespace Sys2Proof.Machine

open Sys2Proof

/-- A move that can touch what ENC has to send, `TX`, or what waits at the `cmd` port. -/
def Move.touchesTransmit : Move → Bool
  | .issue => true
  | .emit => true
  | .reset => true
  | .lineTake => true
  | .present _ => true
  | .workerStep => true
  | _ => false

/-- What ENC has to send, `TX`, what waits at the `cmd` port and the schedule are as they were. -/
structure SameTransmit (s s' : State) : Prop where
  txBuf : s'.txBuf = s.txBuf
  txIdx : s'.txIdx = s.txIdx
  tx : s'.tx = s.tx
  txTaken : s'.txTaken = s.txTaken
  cmd : s'.cmd = s.cmd
  sched : s'.sched = s.sched

theorem act_sameTransmit {s s' : State} {m : Move} (hm : m.touchesTransmit = false) (h : s.act m = .next s') :
    SameTransmit s s' := by
  cases henv : m.isEnvironment with
  | true =>
    have hworker : m ≠ .workerStep := by
      rintro rfl
      contradiction
    rw [act_writes_environment henv hworker h]
    exact ⟨rfl, rfl, rfl, rfl, rfl, rfl⟩
  | false =>
    cases m with
    | rxArm =>
      rw [← Host.Outcome.next.inj h, s.serveRead_writes]
      exact ⟨rfl, rfl, rfl, rfl, rfl, rfl⟩
    | rxByte =>
      rw [← Host.Outcome.next.inj h, State.rxByte_isDecoderStep.writes s]
      exact ⟨rfl, rfl, rfl, rfl, rfl, rfl⟩
    | rxTimeout =>
      rw [← Host.Outcome.next.inj h, State.rxTimeout_isDecoderStep.writes s]
      exact ⟨rfl, rfl, rfl, rfl, rfl, rfl⟩
    | requestRead => exact Host.Outcome.next.inj h ▸ ⟨rfl, rfl, rfl, rfl, rfl, rfl⟩
    | readOutputs => exact Host.Outcome.next.inj h ▸ ⟨rfl, rfl, rfl, rfl, rfl, rfl⟩
    | query q => exact Host.Outcome.next.inj h ▸ ⟨rfl, rfl, rfl, rfl, rfl, rfl⟩
    | lineAppend b => exact Host.Outcome.next.inj h ▸ ⟨rfl, rfl, rfl, rfl, rfl, rfl⟩
    | _ => contradiction

/-- The whole of `TX` grows by at most one byte, and with what is pending by nothing or by a whole frame. -/
def EmitsInOrder (s s' : State) : Prop :=
  (∃ e : Bytes, e.length ≤ 1 ∧ s'.wire = s.wire ++ e) ∧
    ∃ f : Bytes, (f = [] ∨ s.pending = [] ∧ framed f = true) ∧ s'.wire ++ s'.pending = s.wire ++ s.pending ++ f

section
variable {s s' : State}

theorem emitsInOrder_of_same (hwire : s'.wire = s.wire) (hpending : s'.pending = s.pending) : EmitsInOrder s s' :=
  ⟨⟨[], Nat.zero_le _, by rw [hwire, List.append_nil]⟩, [], .inl rfl, by rw [hwire, hpending, List.append_nil]⟩

theorem pending_eq_nil (h : s.txBusy = false) : s.pending = [] :=
  List.drop_eq_nil_of_le ((s.txBusy_eq_false_iff).mp h)

/-- R20: a frame is loaded only where nothing is pending. -/
theorem emitsInOrder_of_load {frame : Bytes} (hidle : s.txBusy = false) (hframed : framed frame = true)
    (hwire : s'.wire = s.wire) (hpending : s'.pending = frame) : EmitsInOrder s s' := by
  have hnone := pending_eq_nil hidle
  exact ⟨⟨[], Nat.zero_le _, by rw [hwire, List.append_nil]⟩, frame, .inr ⟨hnone, hframed⟩,
    by rw [hwire, hpending, hnone, List.append_nil]⟩

theorem issue_emitsInOrder (c : Instr) : EmitsInOrder s (s.issue (encodeCommand c) (replyExpected c)) := by
  rcases s.issue_cases (encodeCommand c) (replyExpected c) with ⟨-, h⟩ | ⟨hidle, frame, henc, h⟩ | ⟨-, e, -, h⟩ <;>
    rw [h]
  case inl => exact emitsInOrder_of_same rfl rfl
  case inr.inl =>
    obtain ⟨-, -, hframed⟩ := frameShapeAndLength Config.fonts c frame henc
    exact emitsInOrder_of_load hidle hframed rfl rfl
  case inr.inr => exact emitsInOrder_of_same rfl rfl

theorem issueNext_emitsInOrder (h : s.issueNext = .next s') : EmitsInOrder s s' := by
  rcases s.issueNext_cases with ⟨-, hsame⟩ | ⟨-, p, rest, -, hcases⟩
  · exact Host.Outcome.next.inj (hsame.symm.trans h) ▸ emitsInOrder_of_same rfl rfl
  · rcases hcases with ⟨why, -, hrefused⟩ | ⟨i, -, -, hexec⟩ | ⟨i, -, -, hexec⟩
    · rw [hrefused] at h
      contradiction
    all_goals
      rw [hexec, exec_eq_issue] at h
      exact Host.Outcome.next.inj h ▸ issue_emitsInOrder i

/-- R21: the byte goes from the front of what is pending to the end of `TX`. -/
theorem emit_emitsInOrder : EmitsInOrder s s.emit := by
  rcases s.emit_cases with ⟨-, h⟩ | ⟨hbusy, b, hb, h⟩ <;> rw [h]
  case inl => exact emitsInOrder_of_same rfl rfl
  case inr =>
    have hpending : s.pending = b :: s.txBuf.drop (s.txIdx + 1) := by
      obtain ⟨hlt, rfl⟩ := List.getElem?_eq_some_iff.mp hb
      exact List.drop_eq_getElem_cons hlt
    refine ⟨⟨[b], le_rfl, by simp [State.wire]⟩, [], .inl rfl, ?_⟩
    rw [hpending]
    simp [State.wire, State.pending]

theorem lineTake_emitsInOrder : EmitsInOrder s s.lineTake := by
  rcases s.lineTake_cases with ⟨-, h⟩ | ⟨b, rest, htx, h⟩ <;> rw [h]
  case inl => exact emitsInOrder_of_same rfl rfl
  case inr => exact emitsInOrder_of_same (by simp [State.wire, htx]) rfl

theorem workerStep_emitsInOrder (hi : Inv s) : EmitsInOrder s s.workerStep := by
  rcases s.workerStep_cases with ⟨frame, -, hitem, hquiet, h⟩ | ⟨-, -, -, h⟩ | h <;> rw [h]
  case inl =>
    exact emitsInOrder_of_load ((s.quiescent_iff).mp hquiet).1 (hi.inHand frame hitem) rfl rfl
  case inr.inl =>
    rw [State.rxArm_isDecoderStep.writes s]
    exact emitsInOrder_of_same rfl rfl
  case inr.inr => exact emitsInOrder_of_same rfl rfl

end

theorem act_emitsInOrder {s s' : State} {m : Move} (hi : Inv s) (hreset : m ≠ .reset) (h : s.act m = .next s') :
    EmitsInOrder s s' := by
  cases hm : m.touchesTransmit with
  | false =>
    have hsame := act_sameTransmit hm h
    exact emitsInOrder_of_same (by rw [State.wire, hsame.tx, hsame.txTaken, State.wire])
      (by rw [State.pending, hsame.txBuf, hsame.txIdx, State.pending])
  | true =>
    cases m with
    | issue => exact issueNext_emitsInOrder h
    | emit => exact Host.Outcome.next.inj h ▸ emit_emitsInOrder
    | lineTake => exact Host.Outcome.next.inj h ▸ lineTake_emitsInOrder
    | present p => exact Host.Outcome.next.inj h ▸ emitsInOrder_of_same rfl rfl
    | workerStep => exact Host.Outcome.next.inj h ▸ workerStep_emitsInOrder hi
    | _ => contradiction

/-- Settles O30: the step is one move, and it is no reset, since none is at the head of the schedule and the block never
resets itself. -/
theorem framesContiguousInOrder : Obligations.FramesContiguousInOrder := by
  intro s s' hinv hnoReset hstep
  obtain ⟨m, ms, hact, hmove⟩ := exists_move_of_step hstep
  have hi := (inv_iff s).mp hinv
  refine act_emitsInOrder (s := { s with sched := ms }) { hi with } ?_ hact
  rintro rfl
  rcases hmove with hs | ⟨-, -, hown⟩
  · simp [hs] at hnoReset
  · rcases s.ownMove_cases with h | h | h | h | h <;> rw [h] at hown <;> contradiction

/-- Settles O60: the first four clauses are the cases of entry, exit and join. In the last one the invariant gives the
termination flag, and that no PortError has occurred, since one would have ended the worker's loop; so the three moves
leave the loop, stop the worker and return OK. -/
theorem scopeLifetime : Obligations.ScopeLifetime := by
  intro s
  refine ⟨fun hout hidle => ?enter, fun hin path => ?exit, fun hleaving hstopped => ?join, fun hleaving hnot => ?waits,
    fun ms hinv hleaving hrunning hfree hsched => ?lifetime⟩
  case enter => simp [State.act, State.scopeEnter, hout, State.workerStart, hidle]
  case exit => simp [State.act, State.scopeExit, hin, State.terminate, Queue.terminate]
  case join => simp [State.act, State.scopeJoin, hleaving, hstopped]
  case waits => simp [State.act, State.scopeJoin, hnot]
  case lifetime =>
    have hi := (inv_iff s).mp hinv
    have hterm := hi.leaving hleaving
    have hnofault : s.driver.portFault ≠ true := fun hfault => by simpa [hrunning] using hi.fault hfault
    have hleaves : step s = .next { s with
        sched := .workerStep :: .scopeJoin :: ms, worker := { s.worker with phase := .draining } } := by
      rw [step_of_sched_cons hsched]
      refine congrArg Host.Outcome.next ((State.workerStep_of_running (by exact hrunning)).trans ?_)
      exact State.workerLoop_of_term (s := { s with sched := .workerStep :: .scopeJoin :: ms }) hfree hterm
    have hstops : step { s with
          sched := .workerStep :: .scopeJoin :: ms, worker := { s.worker with phase := .draining } } =
        .next { s with sched := .scopeJoin :: ms, worker := { s.worker with phase := .stopped } } := by
      rw [step_of_sched_cons rfl]
      rfl
    have hreturns : step { s with sched := .scopeJoin :: ms, worker := { s.worker with phase := .stopped } } =
        .next { s with
          sched := ms, worker := { s.worker with phase := .stopped }
          driver := { s.driver with scope := .left, exitResult := some .ok } } := by
      rw [step_of_sched_cons rfl]
      simp [State.act, State.scopeJoin, hleaving, hnofault]
    exact (core_run_succ hleaves 2).trans ((core_run_succ hstops 1).trans (core_run_succ hreturns 0))

end Sys2Proof.Machine
end

section
/-! R194, R195, D29: a run that goes on, and a run that has ended. -/

namespace Sys2Proof.Machine

open Sys2Proof

/-- D29: the only move that can stop is an `issue` of what is no command. -/
theorem exists_next_of_commands {s : State} (hcmd : s.cmd.all Presented.isCommand = true) (m : Move) :
    ∃ s', s.act m = .next s' := by
  cases m with
  | issue =>
    change ∃ s', s.issueNext = .next s'
    rcases s.issueNext_cases with ⟨-, hsame⟩ | ⟨-, p, rest, hfront, hcases⟩
    · exact ⟨s, hsame⟩
    · rcases hcases with ⟨why, hp, -⟩ | ⟨i, -, -, hexec⟩ | ⟨i, -, -, hexec⟩
      · simp [hfront, Presented.isCommand, hp] at hcmd
      · exact ⟨_, hexec.trans (exec_eq_issue i _)⟩
      · exact ⟨_, hexec.trans (exec_eq_issue i _)⟩
  | _ => exact ⟨_, rfl⟩

theorem issueNext_cmd_subset {s s' : State} (h : s.issueNext = .next s') : s'.cmd ⊆ s.cmd := by
  rcases s.issueNext_cases with ⟨-, hsame⟩ | ⟨-, p, rest, hfront, hcases⟩
  · exact Host.Outcome.next.inj (hsame.symm.trans h) ▸ List.Subset.refl _
  · rcases hcases with ⟨why, -, hrefused⟩ | ⟨i, -, -, hexec⟩ | ⟨i, -, -, hexec⟩
    · rw [hrefused] at h
      contradiction
    · rw [hexec, exec_eq_issue] at h
      rw [← Host.Outcome.next.inj h, (State.issue_isEncoderStep _ _).writes s]
      exact List.Subset.refl _
    · rw [hexec, exec_eq_issue] at h
      rw [← Host.Outcome.next.inj h, (State.issue_isEncoderStep _ _).writes { s with cmd := rest }, hfront]
      exact List.subset_cons_self p rest

/-- What waits at the `cmd` port was there before or has just been presented; and no move changes the schedule. -/
theorem act_keeps_ports {s s' : State} {m : Move} (h : s.act m = .next s') :
    s'.sched = s.sched ∧ ∀ p ∈ s'.cmd, p ∈ s.cmd ∨ m = .present p := by
  cases hm : m.touchesTransmit with
  | false =>
    have hsame := act_sameTransmit hm h
    exact ⟨hsame.sched, fun p hp => .inl (hsame.cmd ▸ hp)⟩
  | true =>
    cases m with
    | issue =>
      have hsched : s'.sched = ({ s.withEncoder s' with cmd := s'.cmd } : State).sched :=
        congrArg State.sched (State.issueNext_writes h)
      exact ⟨hsched, fun p hp => .inl (issueNext_cmd_subset h hp)⟩
    | emit =>
      rw [← Host.Outcome.next.inj h, State.emit_isEncoderStep.writes s]
      exact ⟨rfl, fun p hp => .inl hp⟩
    | reset => exact Host.Outcome.next.inj h ▸ ⟨rfl, fun p hp => .inl hp⟩
    | lineTake =>
      rw [← Host.Outcome.next.inj h, s.lineTake_writes]
      exact ⟨rfl, fun p hp => .inl hp⟩
    | present p =>
      obtain rfl := Host.Outcome.next.inj h
      refine ⟨rfl, fun q hq => (List.mem_append.mp hq).imp_right fun hnew => ?_⟩
      rw [List.mem_singleton.mp hnew]
    | workerStep =>
      rw [← Host.Outcome.next.inj h]
      rcases s.workerStep_cases with ⟨frame, -, -, -, h⟩ | ⟨-, -, -, h⟩ | h <;> rw [h]
      case inr.inl =>
        rw [State.rxArm_isDecoderStep.writes s]
        exact ⟨rfl, fun p hp => .inl hp⟩
      all_goals exact ⟨rfl, fun p hp => .inl hp⟩
    | _ => contradiction

/-- One move where only commands are presented. -/
theorem act_of_commandsOnly {s : State} {m : Move} (hcmd : s.cmd.all Presented.isCommand = true)
    (hsched : s.sched.all Move.presentsCommand = true) (hm : m.presentsCommand = true) :
    ∃ s', s.act m = .next s' ∧ s'.commandsOnly = true := by
  obtain ⟨s', hact⟩ := exists_next_of_commands hcmd m
  obtain ⟨hsame, hwaiting⟩ := act_keeps_ports hact
  refine ⟨s', hact, Bool.and_eq_true_iff.mpr ⟨List.all_eq_true.mpr fun p hp => ?_, hsame ▸ hsched⟩⟩
  rcases hwaiting p hp with hold | rfl
  · exact List.all_eq_true.mp hcmd p hold
  · exact hm

/-- Settles O51: the step's move is at the head of the schedule, or the block's own, which presents nothing. -/
theorem commandsNeverStop : Obligations.CommandsNeverStop := by
  intro s hcommands
  obtain ⟨hcmd, hsched⟩ := Bool.and_eq_true_iff.mp hcommands
  cases hs : s.sched with
  | nil =>
    rw [step_of_sched_nil hs]
    refine act_of_commandsOnly hcmd hsched ?_
    rcases s.ownMove_cases with h | h | h | h | h <;> rw [h] <;> rfl
  | cons m ms =>
    rw [hs, List.all_cons, Bool.and_eq_true_iff] at hsched
    obtain ⟨hm, hms⟩ := hsched
    rw [step_of_sched_cons hs]
    exact act_of_commandsOnly (s := { s with sched := ms }) hcmd hms hm

/-- R143, R148: what an environment that still has something for the block looks like. -/
theorem workerPresents_iff (s : State) : s.workerPresents = true ↔
    (s.worker.phase = .idle ∨ s.worker.phase = .running) ∧
      (((∃ frame, s.worker.serving = .toWrite frame) ∨ s.worker.serving = .toRead) ∨
        s.queue.term = false ∧ (s.queue.tx ≠ [] ∨ 0 < s.queue.rd ∨ 0 < s.driver.owedReads)) := by
  cases hserving : s.worker.serving <;> simp [State.workerPresents, hserving, or_assoc]

/-- R194: nothing is in flight, and nothing is waiting or to come. -/
theorem ended_iff (s : State) : s.ended = true ↔
    (s.txBusy = false ∧ s.rxState = .idle) ∧ s.cmd = [] ∧ s.arms = 0 ∧ s.workerPresents = false ∧
      ∀ m ∈ s.sched, m.presents = false := by
  simp [State.ended, State.hostPresents, s.quiescent_iff, and_assoc]

/-- From a state that has nothing to do, a move that presents nothing: at most the environment and the streams change,
the whole of `TX` does not, and the environment still has nothing for the block. -/
structure StaysQuiet (s s' : State) : Prop where
  rest : s' = { s.withEnvironment s' with tx := s'.tx, txTaken := s'.txTaken, rx := s'.rx }
  wire : s'.wire = s.wire
  presents : s'.workerPresents = true → s.workerPresents = true

section
variable {s s' : State}

theorem staysQuiet_refl : StaysQuiet s s := ⟨rfl, rfl, id⟩

theorem lineTake_staysQuiet : StaysQuiet s s.lineTake := by
  rcases s.lineTake_cases with ⟨-, h⟩ | ⟨b, rest, htx, h⟩ <;> rw [h]
  case inl => exact staysQuiet_refl
  case inr => exact ⟨rfl, by simp [State.wire, htx], id⟩

/-- A move of the environment, where only the last clause is left to see. -/
theorem staysQuiet_of_environment (h : s' = s.withEnvironment s')
    (hpresents : s'.workerPresents = true → s.workerPresents = true) : StaysQuiet s s' := by
  refine ⟨?_, ?_, hpresents⟩
  · rw [h]; rfl
  · rw [h]; rfl

theorem staysQuiet_of_callers (h : s' = s.withCallers s')
    (hpresents : s'.workerPresents = true → s.workerPresents = true) : StaysQuiet s s' :=
  staysQuiet_of_environment (State.eq_withEnvironment_of_callers h) hpresents

theorem driverRead_staysQuiet : StaysQuiet s s.driverRead := by
  refine staysQuiet_of_callers s.driverRead_writes fun hpresents => ?_
  rcases s.driverRead_cases with ⟨howed, h⟩ | ⟨-, h⟩ <;> rw [h] at hpresents
  case inr => exact hpresents
  case inl =>
    obtain ⟨hphase, hitem | ⟨hterm, -⟩⟩ := (workerPresents_iff _).mp hpresents
    · exact (workerPresents_iff s).mpr ⟨hphase, .inl hitem⟩
    · exact (workerPresents_iff s).mpr ⟨hphase, .inr ⟨hterm, .inr (.inr howed)⟩⟩

/-- Setting the flag takes work away. -/
theorem presents_of_terminate (hpresents : s.terminate.workerPresents = true) : s.workerPresents = true := by
  obtain ⟨hphase, hitem | ⟨hterm, -⟩⟩ := (workerPresents_iff _).mp hpresents
  · exact (workerPresents_iff s).mpr ⟨hphase, .inl hitem⟩
  · exact absurd hterm nofun

theorem terminateCall_staysQuiet : StaysQuiet s s.terminateCall := by
  refine staysQuiet_of_callers s.terminateCall_writes fun hpresents => ?_
  rcases s.terminateCall_cases with ⟨-, h⟩ | ⟨-, h⟩ <;> rw [h] at hpresents
  · exact presents_of_terminate hpresents
  · exact hpresents

theorem takeReply_staysQuiet : StaysQuiet s s.takeReply := by
  refine staysQuiet_of_callers s.takeReply_writes fun hpresents => ?_
  rcases s.takeReply_cases with ⟨-, h⟩ | ⟨r, rest, -, h⟩ <;> rw [h] at hpresents <;> exact hpresents

theorem scopeEnter_staysQuiet : StaysQuiet s s.scopeEnter := by
  refine staysQuiet_of_environment s.scopeEnter_writes fun hpresents => ?_
  rcases s.scopeEnter_cases with ⟨-, h⟩ | ⟨-, h⟩
  · rcases s.workerStart_cases with ⟨hidle, hstart⟩ | ⟨-, hstart⟩ <;> rw [h, hstart] at hpresents
    · obtain ⟨-, hwork⟩ := (workerPresents_iff _).mp hpresents
      exact (workerPresents_iff s).mpr ⟨.inl hidle, hwork⟩
    · exact hpresents
  · rwa [h] at hpresents

theorem scopeExit_staysQuiet : StaysQuiet s s.scopeExit := by
  refine staysQuiet_of_callers s.scopeExit_writes fun hpresents => ?_
  rcases s.scopeExit_cases with ⟨-, h⟩ | ⟨-, h⟩ <;> rw [h] at hpresents
  · exact presents_of_terminate hpresents
  · exact hpresents

theorem scopeJoin_staysQuiet : StaysQuiet s s.scopeJoin := by
  refine staysQuiet_of_callers s.scopeJoin_writes fun hpresents => ?_
  rcases s.scopeJoin_cases with ⟨-, -, h⟩ | ⟨-, h⟩ <;> rw [h] at hpresents <;> exact hpresents

theorem portError_staysQuiet : StaysQuiet s s.portError := by
  refine staysQuiet_of_environment s.portError_writes fun hpresents => ?_
  rcases s.portError_cases with ⟨-, h⟩ | ⟨-, h⟩ <;> rw [h] at hpresents
  · exact absurd ((workerPresents_iff _).mp hpresents).1 (by simp)
  · exact hpresents

/-- R148: what a worker's step does where the worker has no item to begin: it takes nothing, since nothing waits. -/
theorem workerStep_presents (h : s.workerStep.workerPresents = true) : s.workerPresents = true := by
  cases hphase : s.worker.phase with
  | idle => simpa only [State.workerStep, hphase] using h
  | draining =>
    rw [State.workerStep_of_draining hphase] at h
    exact absurd ((workerPresents_iff _).mp h).1 (by simp)
  | stopped => simpa only [State.workerStep, hphase] using h
  | running =>
    rw [State.workerStep_of_running hphase] at h
    have hactive : s.worker.phase = .idle ∨ s.worker.phase = .running := .inr hphase
    rcases s.workerLoop_cases with ⟨-, item, q, htake, hloop⟩ | ⟨frame, hitem, -, -⟩ | ⟨-, -, hloop⟩ | ⟨hitem, -, -⟩ |
      ⟨-, -, hloop⟩ | hloop
    case inl =>
      rcases s.queue.take_cases with ⟨-, ht⟩ | ⟨hterm, b, rest, htx, -⟩ | ⟨hterm, -, hrd, -⟩ | ⟨-, -, -, ht⟩
      · obtain ⟨rfl, rfl⟩ := Prod.mk.inj (Option.some.inj (ht.symm.trans htake))
        rw [hloop] at h
        exact absurd ((workerPresents_iff _).mp h).1 (by simp [State.workerTook])
      · exact (workerPresents_iff s).mpr ⟨hactive, .inr ⟨hterm, .inl (by simp [htx])⟩⟩
      · exact (workerPresents_iff s).mpr ⟨hactive, .inr ⟨hterm, .inr (.inl hrd)⟩⟩
      · rw [ht] at htake
        contradiction
    case inr.inl => exact (workerPresents_iff s).mpr ⟨hactive, .inl (.inl ⟨frame, hitem⟩)⟩
    case inr.inr.inr.inl => exact (workerPresents_iff s).mpr ⟨hactive, .inl (.inr hitem)⟩
    case inr.inr.inr.inr.inr => rwa [hloop] at h
    all_goals
      rw [hloop] at h
      obtain ⟨-, hitem | hqueue⟩ := (workerPresents_iff _).mp h
      · simp at hitem
      · exact (workerPresents_iff s).mpr ⟨hactive, .inr hqueue⟩

theorem workerStep_staysQuiet (hidle : s.workerPresents = false) : StaysQuiet s s.workerStep := by
  have hnothing : ∀ hitem : (∃ frame, s.worker.serving = .toWrite frame) ∨ s.worker.serving = .toRead,
      s.worker.phase ≠ .running := fun hitem hrunning => by
    rw [(workerPresents_iff s).mpr ⟨.inr hrunning, .inl hitem⟩] at hidle
    contradiction
  rcases s.workerStep_cases with ⟨frame, hrunning, hitem, -, -⟩ | ⟨hrunning, hitem, -, -⟩ | h
  · exact absurd hrunning (hnothing (.inl ⟨frame, hitem⟩))
  · exact absurd hrunning (hnothing (.inr hitem))
  · exact staysQuiet_of_environment h workerStep_presents

/-- R194: from an ended run, every move that presents nothing further. -/
theorem act_of_ended {m : Move} (hended : s.ended = true) (hm : m.presents = false) :
    ∃ s', s.act m = .next s' ∧ StaysQuiet s s' := by
  obtain ⟨⟨hidle, hrx⟩, hcmd, harms, hnothing, -⟩ := (ended_iff s).mp hended
  cases m with
  | issue => exact ⟨s, by simp [State.act, State.issueNext, hcmd], staysQuiet_refl⟩
  | emit => exact ⟨s, (emitStep s).2 ((s.txBusy_eq_false_iff).mp hidle), staysQuiet_refl⟩
  | rxArm => exact ⟨s, (waitingReadIsServed s).2 (.inr (.inl harms)), staysQuiet_refl⟩
  | rxByte => exact ⟨s, idleDecoderTakesNothing s (.inl hrx), staysQuiet_refl⟩
  | rxTimeout => exact ⟨s, (timeoutStep s).2 hrx, staysQuiet_refl⟩
  | readOutputs => exact ⟨s, rfl, staysQuiet_refl⟩
  | query q => exact ⟨s, rfl, staysQuiet_refl⟩
  | lineTake => exact ⟨_, rfl, lineTake_staysQuiet⟩
  | lineAppend b => exact ⟨_, rfl, ⟨rfl, rfl, id⟩⟩
  | driverRead => exact ⟨_, rfl, driverRead_staysQuiet⟩
  | terminate => exact ⟨_, rfl, terminateCall_staysQuiet⟩
  | takeReply => exact ⟨_, rfl, takeReply_staysQuiet⟩
  | scopeEnter => exact ⟨_, rfl, scopeEnter_staysQuiet⟩
  | scopeExit path => exact ⟨_, rfl, scopeExit_staysQuiet⟩
  | scopeJoin => exact ⟨_, rfl, scopeJoin_staysQuiet⟩
  | workerStep => exact ⟨_, rfl, workerStep_staysQuiet hnothing⟩
  | portError => exact ⟨_, rfl, portError_staysQuiet⟩
  | _ => contradiction

/-- A quiet move keeps the run ended. -/
theorem StaysQuiet.ended (h : StaysQuiet s s') (hended : s.ended = true) : s'.ended = true := by
  obtain ⟨⟨hidle, hrx⟩, hcmd, harms, hnothing, hsched⟩ := (ended_iff s).mp hended
  have hnothing' : s'.workerPresents = false := Bool.eq_false_iff.mpr fun hp => by
    rw [h.presents hp] at hnothing
    contradiction
  refine (ended_iff s').mpr ⟨⟨?_, ?_⟩, ?_, ?_, hnothing', ?_⟩ <;> rw [h.rest]
  · exact hidle
  · exact hrx
  · exact hcmd
  · exact harms
  · exact hsched

/-- R194: the step of an ended run, whatever is scheduled. -/
theorem step_of_ended (hended : s.ended = true) :
    ∃ s', step s = .next s' ∧ s'.ended = true ∧
      s' = { s.withEnvironment s' with tx := s'.tx, txTaken := s'.txTaken, rx := s'.rx, sched := s'.sched } ∧
      s'.wire = s.wire := by
  obtain ⟨hquiet, hcmd, harms, hnothing, hsched⟩ := (ended_iff s).mp hended
  cases hs : s.sched with
  | nil =>
    obtain ⟨s', hact, hstays⟩ := act_of_ended (m := s.ownMove) hended (by
      rcases s.ownMove_cases with h | h | h | h | h <;> rw [h] <;> rfl)
    exact ⟨s', by rw [step_of_sched_nil hs, hact], hstays.ended hended, by rw [hstays.rest]; rfl, hstays.wire⟩
  | cons m ms =>
    rw [hs] at hsched
    obtain ⟨hm, hms⟩ := List.forall_mem_cons.mp hsched
    have hended' : State.ended { s with sched := ms } = true := (ended_iff _).mpr ⟨hquiet, hcmd, harms, hnothing, hms⟩
    obtain ⟨s', hact, hstays⟩ := act_of_ended hended' hm
    exact ⟨s', by rw [step_of_sched_cons hs, hact], hstays.ended hended', by rw [hstays.rest]; rfl, hstays.wire⟩

end

section
variable {s : State}

theorem State.ownMove_of_read (hidle : s.txBusy = false) (howned : s.portOwned = false) (hcmd : s.cmd = [])
    (hrx : s.rxState = .idle) (harms : 0 < s.arms) : s.ownMove = .rxArm := by
  simp [State.ownMove, hidle, howned, hcmd, hrx, harms]

theorem State.ownMove_of_byte (hidle : s.txBusy = false) (hport : s.portOwned = true ∨ s.cmd = [])
    (hrx : s.rxState ≠ .idle) (hbytes : s.rx ≠ []) : s.ownMove = .rxByte := by
  have harmed : s.rxArmed = true := by
    cases hstate : s.rxState with
    | idle => exact absurd hstate hrx
    | hunt => simp [State.rxArmed, hstate]
    | body => simp [State.rxArmed, hstate]
  have hnoCommand : ¬(s.portOwned = false ∧ s.cmd ≠ []) := by
    rintro ⟨howned, hcmd⟩
    simp [howned, hcmd] at hport
  rw [State.ownMove, if_neg (by simp [hidle]), if_neg hnoCommand, if_neg (by simp [hrx]), if_pos ⟨harmed, hbytes⟩]

theorem State.ownMove_of_quiet (hidle : s.txBusy = false) (hport : s.portOwned = true ∨ s.cmd = [])
    (hread : s.rxState ≠ .idle ∧ s.rx = [] ∨ s.rxState = .idle ∧ (s.portOwned = true ∨ s.arms = 0)) :
    s.ownMove = .readOutputs := by
  have hnoCommand : ¬(s.portOwned = false ∧ s.cmd ≠ []) := by
    rintro ⟨howned, hcmd⟩
    simp [howned, hcmd] at hport
  have hnoRead : ¬(s.portOwned = false ∧ s.rxState = .idle ∧ 0 < s.arms) := by
    rintro ⟨howned, hrx, harms⟩
    simp [howned, hrx, harms.ne'] at hread
  have hnoByte : ¬(s.rxArmed = true ∧ s.rx ≠ []) := by
    rintro ⟨harmed, hbytes⟩
    rcases hread with ⟨-, hnone⟩ | ⟨hrx, -⟩
    · exact hbytes hnone
    · simp [State.rxArmed, hrx] at harmed
  rw [State.ownMove, if_neg (by simp [hidle]), if_neg hnoCommand, if_neg hnoRead, if_neg hnoByte]

end

/-- Settles O53: the first clauses are the order of `ownMove`; an ended run has nothing to do of its own, and whatever
is scheduled presents nothing further, so it is a quiet move. -/
theorem stepPerformsNextMove : Obligations.StepPerformsNextMove := by
  intro s
  have hquiet : s.sched = [] → s.txBusy = false → s.portOwned = true ∨ s.cmd = [] →
      s.rxState ≠ .idle ∧ s.rx = [] ∨ s.rxState = .idle ∧ (s.portOwned = true ∨ s.arms = 0) → step s = .next s := by
    intro hsched hidle hport hread
    rw [step_of_sched_nil hsched, State.ownMove_of_quiet hidle hport hread]
    rfl
  refine ⟨fun m ms hsched => step_of_sched_cons hsched, fun hsched hbusy => ?emit,
    fun hsched hidle howned hcmd => ?issue, fun hsched hidle howned hcmd hrx harms => ?arm,
    fun hsched hidle hport hrx hbytes => ?byte, hquiet, fun hended hsched => ?ended, fun hended => ?stays⟩
  case emit => rw [step_of_sched_nil hsched, State.ownMove_of_busy hbusy]
  case issue => rw [step_of_sched_nil hsched, State.ownMove_of_command hidle howned hcmd]
  case arm => rw [step_of_sched_nil hsched, State.ownMove_of_read hidle howned hcmd hrx harms]
  case byte => rw [step_of_sched_nil hsched, State.ownMove_of_byte hidle hport hrx hbytes]
  case ended =>
    obtain ⟨⟨hidle, hrx⟩, hcmd, harms, -⟩ := (ended_iff s).mp hended
    exact hquiet hsched hidle (.inr hcmd) (.inr ⟨hrx, .inr harms⟩)
  case stays =>
    obtain ⟨s', hstep, hended', hrest, hwire⟩ := step_of_ended hended
    refine ⟨s', hstep, hended', ?_⟩
    rw [hwire, hrest]
    exact ⟨rfl, rfl, rfl, rfl, rfl, rfl, rfl, rfl, rfl⟩

end Sys2Proof.Machine
end
